-- ==== Sys2Proof/Word.lean ====
section
/-! DEFINITION. The words of the part: the byte of a frame, a record or an argument, and the widths that wrap or saturate. -/

namespace Sys2Proof

/-- One byte of a frame, of request arguments or of a table record (09 R187). -/
abbrev Byte := BitVec 8

/-- The width of the saturating counters of 09 R179 and of the generation of 02 R26. -/
abbrev Word16 := BitVec 16

/-- The width of the part time (09 R184) and of the zone mask (06 R99). -/
abbrev Word32 := BitVec 32

end Sys2Proof
end

