-- ==== Sys2Proof/Config.lean ====
section
/-! DEFINITION. What the part fixes: its names for ports, banks, tables and areas, its capacities, and the free values. -/

namespace Sys2Proof

/-- The two ports of the part (01). -/
inductive Port where
  | east
  | west
  deriving DecidableEq, Repr

/-- The two non-volatile banks (02 R26). -/
inductive BankId where
  | a
  | b
  deriving DecidableEq, Repr

/-- The four tables of a bank (02). -/
inductive TableName where
  | segment
  | valve
  | sensor
  | association
  deriving DecidableEq, Repr

/-- The areas of a bank that carry check codes, numbered by 02 R31. -/
inductive Area where
  | segment
  | valve
  | sensor
  | association
  | segmentIndex
  | sensorIndex
  | stationIndex
  deriving DecidableEq, Repr

/-- One entry or index record of a bank: an area and the index in it (02 R31). -/
structure Place where
  area : Area
  index : Nat
  deriving DecidableEq, Repr

namespace Config

/-- Entries of the Segment Table (02). -/
def segments : Nat := 512
/-- Entries of the Valve Table (02). -/
def valves : Nat := 1024
/-- Entries of the Sensor Table, and channel contexts (02 R21). -/
def sensors : Nat := 256
/-- Entries of the Association Table (02). -/
def associations : Nat := 2048
/-- Highest station address (01). -/
def stations : Nat := 250
/-- Zones (05). -/
def zones : Nat := 32
/-- Entries of the incident table (06 R100). -/
def incidents : Nat := 16
/-- Motion slots (08 R156). -/
def slots : Nat := 8
/-- Places of the notice queue (09 R185). -/
def noticePlaces : Nat := 32
/-- Places of the answer queue (01 R16). -/
def answerPlaces : Nat := 4
/-- Receive buffers of one port (01 R6). -/
def buffers : Nat := 2
/-- Largest closure list (07 R140). -/
def closureEntries : Nat := 64
/-- Largest passing set (06 R117). -/
def passingValves : Nat := 8
/-- Recorded outage segments (07 R146). -/
def outageRecorded : Nat := 32
/-- Largest value of the 32-bit raise and rotation counters (06 R101). -/
def counterTop : Nat := 4294967295
/-- "None" in a 16-bit index field, and EXTERNAL as a valve's second side (02 R20, 09 R186). -/
def none16 : Nat := 65535
/-- "None" or "stopped" in a 32-bit field (04 R79, 08 R173). -/
def none32 : Nat := 4294967295

/-- FREE VALUE (log 5): whether, at the `n`-th millisecond, a stored bit of a bank is lost, and where.
Chapter 2 (02, section 2.4) says that non-volatile memory can lose a bit over the years and does not say when. -/
opaque bitLoss : Nat → Option (BankId × Place)

/-- FREE VALUE (log 14): which of the free incident entries the `n`-th raising takes, counted around them.
Chapter 6 (06 R100, R102) says that a raising fills a free entry and does not say which. -/
opaque freeEntryChoice : Nat → Nat

end Config

end Sys2Proof
end

