-- ==== Sys2Proof/Syntax.lean ====
section
/-! DEFINITION. The commands of the part: one constructor for each row of spec/opcode_table.json, with its operands. -/

namespace Sys2Proof

/-- Where a REQUEST comes from and what it carries beside its kind: the port it arrives at, the sending station,
the tag byte, and the argument bytes (09 R175). -/
structure Request where
  port : Port
  station : Byte
  tag : Byte
  args : List Byte
  deriving DecidableEq, Repr

/-- How a power loss or line reset falls upon the non-volatile writes it cuts off (02 R26, 03 R57, 09 R177, R180; log 10).
`inSwap`: it falls within the write of the selector word at a swap; `swapWritten`: that word is left as written, and otherwise
as it was; `landed`: a setting or persistent hold being written is left as asked, and otherwise as it was. -/
structure Cut where
  inSwap : Bool
  swapWritten : Bool
  landed : Bool
  deriving DecidableEq, Repr

/-- What a compile could not write after four tries (03 R49): an entry of a table, or an index record. -/
inductive Unwritten where
  | entry (table : TableName) (index : Nat)
  | indexRecord
  deriving DecidableEq, Repr

/-- The commands of the part (95 lists what comes about inside each). -/
inductive Instr where
  | powerOn
  | lineReset (cut : Cut)
  | resetRelease
  | startUpCheckComplete (readFirst : List Place)
  | linkUp (port : Port)
  | linkDown (port : Port)
  | frameArrival (port : Port) (frame : List Byte)
  | transmitCompletion (port : Port)
  | softResetTakesPlace
  | requestUnknownKind (port : Port) (station : Byte) (body : List Byte)
  | status (q : Request)
  | readSettings (q : Request)
  | setSetting (q : Request)
  | settingWriteDone
  | setMode (q : Request)
  | zoneMask (q : Request)
  | loadWindow (q : Request)
  | loadData (q : Request)
  | fill (q : Request)
  | copyActive (q : Request)
  | copyActiveDone
  | compile (q : Request)
  | compileErrorEnd (unwritten : Option Unwritten)
  | compileWriteDone
  | readEntry (q : Request)
  | raise (q : Request)
  | consent (q : Request)
  | refuse (q : Request)
  | suspend (q : Request)
  | resume (q : Request)
  | release (q : Request)
  | expand (q : Request)
  | retry (q : Request)
  | readIncident (q : Request)
  | setHold (q : Request)
  | persistentHoldWriteDone
  | holdLock (q : Request)
  | clearFault (q : Request)
  | readValve (q : Request)
  | readSensor (q : Request)
  | softReset (q : Request)
  | stalenessExpiry (sensor : Nat)
  | windowExpiry (zone : Nat)
  | confirmationExpiry (incident : Nat)
  | planCompletion
  | responseTimerExpiry (slot : Nat)
  | strokeTimerExpiry (slot : Nat)
  | powerLoss (cut : Cut)
  deriving DecidableEq, Repr

end Sys2Proof
end

