-- ==== Sys2Proof/WellFormed.lean ====
section
/-! DEFINITION. Which commands are well formed: their operands name things the part has. -/

namespace Sys2Proof

/-- How many entries a table has (03 R41). -/
def TableName.size : TableName → Nat
  | .segment => Config.segments
  | .valve => Config.valves
  | .sensor => Config.sensors
  | .association => Config.associations

/-- The lowest index and one past the highest index of an area (02 R31; station addresses count from 1). -/
def Area.range : Area → Nat × Nat
  | .segment => (0, Config.segments)
  | .valve => (0, Config.valves)
  | .sensor => (0, Config.sensors)
  | .association => (0, Config.associations)
  | .segmentIndex => (0, Config.segments)
  | .sensorIndex => (0, Config.sensors)
  | .stationIndex => (1, Config.stations + 1)

/-- A place that a bank has. -/
def Place.wellFormed (p : Place) : Bool :=
  p.area.range.1 ≤ p.index && p.index < p.area.range.2

/-- A station address, 1 to 250 (01). -/
def stationOk (b : Byte) : Bool := 1 ≤ b.toNat && b.toNat ≤ Config.stations

/-- A REQUEST whose arguments fit a frame body of 240 bytes behind the two-byte head (09 R175, R188). -/
def Request.wellFormed (q : Request) : Bool := stationOk q.station && q.args.length ≤ 238

/-- The kind codes of the request index (09, section 9.2). -/
def requestKinds : List Nat :=
  [0x01, 0x02, 0x03, 0x04, 0x05, 0x10, 0x11, 0x12, 0x13, 0x14, 0x15,
   0x20, 0x21, 0x22, 0x23, 0x24, 0x25, 0x26, 0x27, 0x28, 0x30, 0x31, 0x32, 0x33, 0x34, 0x3F]

/-- A body that is too short for a head, or whose kind is not in the request index (09 R175). -/
def unknownBody (body : List Byte) : Bool :=
  match body with
  | k :: _ :: _ => !requestKinds.contains k.toNat
  | _ => true

/-- An entry that a compile writes. -/
def Unwritten.wellFormed : Unwritten → Bool
  | .entry t i => i < t.size
  | .indexRecord => true

/-- Whether a command's operands are in the ranges the spec gives them. -/
def Instr.wellFormed : Instr → Bool
  | .powerOn | .lineReset _ | .resetRelease | .linkUp _ | .linkDown _ | .frameArrival _ _ | .transmitCompletion _
  | .softResetTakesPlace | .settingWriteDone | .copyActiveDone | .compileWriteDone | .persistentHoldWriteDone
  | .planCompletion | .powerLoss _ => true
  | .startUpCheckComplete ps => ps.all Place.wellFormed
  | .requestUnknownKind _ station body => stationOk station && body.length ≤ 240 && unknownBody body
  | .status q | .readSettings q | .setSetting q | .setMode q | .zoneMask q | .loadWindow q | .loadData q | .fill q
  | .copyActive q | .compile q | .readEntry q | .raise q | .consent q | .refuse q | .suspend q | .resume q
  | .release q | .expand q | .retry q | .readIncident q | .setHold q | .holdLock q | .clearFault q | .readValve q
  | .readSensor q | .softReset q => q.wellFormed
  | .compileErrorEnd none => true
  | .compileErrorEnd (some w) => w.wellFormed
  | .stalenessExpiry i => i < Config.sensors
  | .windowExpiry z => z < Config.zones
  | .confirmationExpiry n => 1 ≤ n && n ≤ 255
  | .responseTimerExpiry k => k < Config.slots
  | .strokeTimerExpiry k => k < Config.slots

end Sys2Proof
end

