-- ==== Sys2Proof/Machine/State.lean ====
section
/-! DEFINITION. The state of the part, block by block, as plain data, and its value after reset. -/

namespace Sys2Proof.Machine

/-- An array by index: (index, value) pairs with indexes strictly rising; an index not listed is absent, or holds the
array's reset value. -/
abbrev Sparse (α : Type) := List (Nat × α)

/-! ### Network tables (02, 03) -/

/-- A table record: 12 bytes (09 R190). -/
structure Record where
  b0 : Byte
  b1 : Byte
  b2 : Byte
  b3 : Byte
  b4 : Byte
  b5 : Byte
  b6 : Byte
  b7 : Byte
  b8 : Byte
  b9 : Byte
  b10 : Byte
  b11 : Byte
  deriving DecidableEq, Repr

/-- The four tables (02 R19-R22); an entry not listed is absent. -/
structure Tables where
  segments : Sparse Record
  valves : Sparse Record
  sensors : Sparse Record
  associations : Sparse Record
  deriving DecidableEq, Repr

/-- How many wrong bits a check code shows, where it shows any (02 R29). -/
inductive Wrong where
  | one
  | two
  deriving DecidableEq, Repr

/-- A bank (02 R26): its tables, what its check codes show (by `Place.key`; not listed: no error), its validity mark.
Its index records are computed from its tables (log 6). -/
structure Bank where
  tables : Tables
  damage : Sparse Wrong
  valid : Bool
  deriving DecidableEq, Repr

/-- The settings record (09 R180). -/
structure Settings where
  partAddress : Nat
  primary : Nat
  standby : Nat
  locateWindow : Nat
  confirmation : Nat
  response : Nat
  expansionLimit : Nat
  outageLimit : Nat
  grantOrder : Nat
  startMode : Nat
  deriving DecidableEq, Repr

/-- Everything non-volatile: banks, selector word (02 R26), persistent holds (02 R36), settings (09 R180). -/
structure Nv where
  bankA : Bank
  bankB : Bank
  selector : BankId
  generation : Word16
  persistent : Sparse Unit
  settings : Settings
  deriving DecidableEq, Repr

/-- A place of the condition map that is not SOUND (02 R29). -/
inductive Mark where
  | corrected
  | poisoned
  deriving DecidableEq, Repr

/-- An open load window (03 R40). -/
structure LoadWindow where
  table : TableName
  first : Nat
  last : Nat
  pointer : Nat
  deriving DecidableEq, Repr

/-- The compile state (03 R46). `written`: the inactive bank is written and the swap waits for the start-up check
(03 R51). -/
inductive CompileState where
  | idle
  | compiling (written : Bool)
  | swapPending
  deriving DecidableEq, Repr

/-- Compile results (09, codes table). -/
inductive CompileResult where
  | ok
  | badField
  | badEndpoint
  | badReference
  | duplicate
  | boundaryOverflow
  | noSource
  | conflict
  | assocOverflow
  | writeFailed
  deriving DecidableEq, Repr

/-- The volatile state of the Table Store (02, 03). `valid`: table state VALID; `checking`: the start-up check runs. -/
structure TableStore where
  valid : Bool
  checking : Bool
  map : Sparse Mark
  corrections : Word16
  dynamic : Sparse Unit
  lock : Bool
  shadow : Tables
  window : Option LoadWindow
  compile : CompileState
  last : Option CompileResult
  deriving DecidableEq, Repr

/-! ### Watch and location (04, 05) -/

/-- Channel states (04, section 4.1). -/
inductive ChannelState where
  | quiet
  | suspect
  | tripped
  | attributed
  | inhibited
  | stale
  deriving DecidableEq, Repr

/-- A channel context (04, section 4.1). `timer`: the staleness timer, stopped or with its remaining ms. -/
structure Channel where
  state : ChannelState
  seeded : Bool
  baseline : Nat
  deviation : Nat
  persistence : Nat
  release : Nat
  timer : Option Nat
  incident : Option Nat
  home : Option Nat
  lastReading : Option Nat
  lastTime : Option Nat
  deriving DecidableEq, Repr

/-- A channel context after every reset (04 R58). -/
def Channel.reset : Channel :=
  ⟨.quiet, false, 0, 0, 0, 0, none, none, none, none, none⟩

/-- The Watch Unit: channel contexts, and the last-sample-sequence table (01 R12). -/
structure WatchUnit where
  channels : Sparse Channel
  lastSeq : Sparse Byte
  deriving DecidableEq, Repr

/-- A zone's window state with its timer, which runs exactly while the window is OPEN (05). -/
inductive Window where
  | closed
  | opened (left : Nat)
  | deferred
  deriving DecidableEq, Repr

/-- The Locate Unit: scores, windows, and the segments still to be recomputed in the event (05 R81). -/
structure LocateUnit where
  scores : Sparse Nat
  windows : Sparse Window
  dirty : List Nat
  deriving DecidableEq, Repr

/-! ### Incidents and planning (06, 07) -/

/-- Operating modes (06 R96). -/
inductive Mode where
  | halt
  | watch
  | advise
  deriving DecidableEq, Repr

/-- Incident states (06, section 6.4). -/
inductive IncidentState where
  | pending
  | planning
  | awaitingConsent
  | isolating
  | suspending
  | suspended
  | confirming
  | isolated
  | unconfirmed
  | stalled
  | restoring
  deriving DecidableEq, Repr

/-- Roles of a closure entry (06 R102). -/
inductive Role where
  | boundary
  | interior
  deriving DecidableEq, Repr

/-- Fault causes (09, codes table). -/
inductive FaultCause where
  | noResponse
  | jammed
  | overrun
  | stoppedShort
  | held
  | unusable
  deriving DecidableEq, Repr

/-- Progress of a closure entry (`done` is CLOSED) or of a reopen entry (`done` is DONE) (06 R102). -/
inductive Progress where
  | queued
  | inMotion
  | done
  | faulted (cause : FaultCause)
  | skipped
  deriving DecidableEq, Repr

/-- An entry of a closure list (06 R102). -/
structure ClosureEntry where
  valve : Nat
  role : Role
  progress : Progress
  deriving DecidableEq, Repr

/-- An entry of a reopen list (06 R102). -/
structure ReopenEntry where
  valve : Nat
  progress : Progress
  deriving DecidableEq, Repr

/-- Raise causes (06 R102). -/
inductive RaiseCause where
  | detected
  | manual
  deriving DecidableEq, Repr

/-- Stall causes (06 R102). -/
inductive StallCause where
  | unbounded
  | tooLarge
  | listFull
  | tableError
  deriving DecidableEq, Repr

/-- A set of consent causes (06 R105). -/
structure Causes where
  advise : Bool
  protect : Bool
  outageLimit : Bool
  deriving DecidableEq, Repr

/-- An incident record (06 R102). `order`: raise order; `key`: rotation key; `owed`: REPLAN_OWED; `timer`: the
confirmation timer. -/
structure Incident where
  number : Nat
  state : IncidentState
  burst : Nat
  zone : Nat
  cls : Nat
  cause : RaiseCause
  score : Nat
  order : Nat
  key : Nat
  isolation : List Nat
  closure : List ClosureEntry
  passing : List Nat
  attributed : List Nat
  outageCount : Nat
  outage : List Nat
  reopen : List ReopenEntry
  unverified : Bool
  releaseRequested : Bool
  owed : Bool
  consent : Causes
  stall : Option StallCause
  generation : Word16
  timer : Option Nat
  deriving DecidableEq, Repr

/-- The Incident Controller (06). `picks`: the counter that the free choice of an entry is applied to (log 14). -/
structure IncidentController where
  mode : Mode
  mask : Word32
  table : Sparse Incident
  nextNumber : Nat
  raises : Nat
  rotations : Nat
  alert : Bool
  picks : Nat
  deriving DecidableEq, Repr

/-- Reported positions (08 R150). -/
inductive Position where
  | opened
  | closed
  | mid
  | unknown
  deriving DecidableEq, Repr

/-- Motion codes of a POSITION report (08 R150). -/
inductive MotionCode where
  | idle
  | moving
  | jammed
  deriving DecidableEq, Repr

/-- Actions of a DRIVE (08). -/
inductive Action where
  | close
  | reopen
  deriving DecidableEq, Repr

/-- The status of a valve (08 R151). -/
inductive ValveMark where
  | normal
  | moving
  | failed
  deriving DecidableEq, Repr

/-- An entry of the valve status array (08 R151). -/
structure ValveStatus where
  position : Position
  status : ValveMark
  claims : Nat
  faults : Nat
  token : Nat
  echo : Nat
  lastAction : Option Action
  deriving DecidableEq, Repr

/-- A valve status entry after every reset (08 R151). -/
def ValveStatus.reset : ValveStatus := ⟨.unknown, .normal, 0, 0, 0, 0, none⟩

/-- What the engine reads at an admission and works on until the completion (07 R132). -/
structure Snapshot where
  isolation : List Nat
  closure : List ClosureEntry
  passing : List Nat
  persistent : Sparse Unit
  dynamic : Sparse Unit
  valves : Sparse ValveStatus
  moving : List Nat
  otherSets : List (List Nat)
  limit : Nat
  deriving DecidableEq, Repr

/-- Plan kinds (07 R127). -/
inductive PlanKind where
  | first
  | replan
  deriving DecidableEq, Repr

/-- The planning engine (07 R127). -/
inductive Engine where
  | idle
  | running (order : Nat) (kind : PlanKind) (work : Snapshot)
  deriving DecidableEq, Repr

/-- The Isolation Planner (07): the engine, and the queued raise orders, oldest first. -/
structure Planner where
  engine : Engine
  queue : List Nat
  deriving DecidableEq, Repr

/-! ### Valve drive (08) -/

/-- The state of a slot that is not IDLE (08 R156). -/
inductive Phase where
  | issued
  | moving
  deriving DecidableEq, Repr

/-- The motion a slot holds (08 R156). The owner's entry is the closure entry of the valve for CLOSE and its reopen entry
for OPEN. -/
structure Motion where
  phase : Phase
  valve : Nat
  action : Action
  token : Nat
  owner : Nat
  surge : Nat
  stroke : Nat
  reissued : Bool
  response : Option Nat
  strokeTimer : Option Nat
  deriving DecidableEq, Repr

/-- A DRIVE as the Drive Sequencer hands it over, with the token that both its copies carry (08 R150, R162). -/
structure Drive where
  slot : Nat
  station : Nat
  channel : Nat
  action : Action
  stroke : Nat
  token : Nat
  deriving DecidableEq, Repr

/-- What the Drive Sequencer tells the Ring Port Unit: a DRIVE, or that a slot's motion has ended (01 R15). -/
inductive DriveOrder where
  | issue (d : Drive)
  | discard (slot : Nat)
  deriving DecidableEq, Repr

/-- The Drive Sequencer (08). `outbox`: handed over in this event, oldest first. -/
structure DriveSequencer where
  valves : Sparse ValveStatus
  slots : Sparse Motion
  outbox : List DriveOrder
  deriving DecidableEq, Repr

/-! ### Notices (09) -/

/-- Notice kinds (09). -/
inductive NoticeKind where
  | deviceReset
  | modeChanged
  | compileDone
  | swapDone
  | tableError
  | burstSeen
  | locateEmpty
  | tableFull
  | incidentState
  | planReady
  | valveFault
  | lateReport
  | reopenSkipped
  | valveDisturbed
  | sensorStale
  deriving DecidableEq, Repr

/-- A notice (09, section 9.6). -/
structure Notice where
  kind : NoticeKind
  time : Word32
  incident : Nat
  valve : Nat
  segment : Nat
  code : Nat
  deriving DecidableEq, Repr

/-- The notice queue, the notices-lost counter and the part time (09). `seam`: how many of the queued notices a TABLE_ERROR of
the event joins behind; between events, all of them (09 R185; log 15). -/
structure NoticeLog where
  notices : List Notice
  lost : Word16
  time : Word32
  seam : Nat
  deriving DecidableEq, Repr

/-- The volatile state of the six blocks that decide (TS, WU, LU, IC, IP, DS) and of the notice queue they share. -/
structure Core where
  ts : TableStore
  wu : WatchUnit
  lu : LocateUnit
  ic : IncidentController
  ip : Planner
  ds : DriveSequencer
  log : NoticeLog
  deriving DecidableEq, Repr

/-! ### Requests and answers (09) -/

/-- Reasons of REFUSED (09 R176). -/
inductive Reason where
  | covered
  | full
  | noTables
  | state
  deriving DecidableEq, Repr

/-- Results of a request (09 R176). -/
inductive Result where
  | done
  | started
  | busy
  | badRequest
  | wrongMode
  | notFound
  | locked
  | refused (why : Reason)
  | noWindow
  deriving DecidableEq, Repr

/-- What an answer needs of its request: the port and station it came from, and its kind and tag bytes (09 R175). -/
structure Origin where
  port : Port
  station : Byte
  kind : Byte
  tag : Byte
  deriving DecidableEq, Repr

/-- An ANSWER: its bound port is `origin.port` once it is queued (01 R16). `softReset`: it answers SOFT RESET (09 R183);
`sending`: it is in transmission. -/
structure Answer where
  origin : Origin
  result : Result
  data : List Byte
  softReset : Bool
  sending : Bool
  deriving DecidableEq, Repr

/-- The operation the handler is WORKING on (09 R177). -/
inductive Job where
  | copyActive (origin : Origin)
  | setting (number value : Nat) (origin : Origin)
  | hold (valve : Nat) (set : Bool) (origin : Origin)
  deriving DecidableEq, Repr

/-- The handler state, with the answer in hand in WAITING (09 R174). -/
inductive Handler where
  | ready
  | working (job : Job)
  | waiting (answer : Answer)
  | resetPending
  deriving DecidableEq, Repr

/-! ### The ring (01) -/

/-- What an occupied receive buffer holds: a frame awaiting the opposite output (`sending`: in transmission there), or a
REQUEST held for the Management Handler (01 R9, R10). -/
inductive Held where
  | forward (frame : List Byte) (sending : Bool)
  | request (station : Byte) (body : List Byte)
  deriving DecidableEq, Repr

/-- An occupied receive buffer and the port it belongs to. -/
structure Buffered where
  port : Port
  held : Held
  deriving DecidableEq, Repr

/-- What kind of frame an output is sending (01 R14). -/
inductive Sent where
  | forwarded
  | drive
  | answer
  | notice
  deriving DecidableEq, Repr

/-- A port's output (01 R14). -/
inductive Output where
  | idle
  | sending (frame : List Byte) (what : Sent)
  deriving DecidableEq, Repr

/-- A completed header: destination, source, sequence (01 R5). -/
structure Header where
  dest : Byte
  source : Byte
  sequence : Byte
  deriving DecidableEq, Repr

/-- A DRIVE copy in a port's queue (01 R15). -/
structure DriveCopy where
  drive : Drive
  header : Option Header
  sending : Bool
  deriving DecidableEq, Repr

/-- One port: link UP, output, drive-copy queue (01). -/
structure PortState where
  up : Bool
  output : Output
  drives : List DriveCopy
  deriving DecidableEq, Repr

/-- Which ports have taken the head notice, and the header completed at its first taking (01 R5, R17). -/
structure Head where
  east : Bool
  west : Bool
  header : Option Header
  deriving DecidableEq, Repr

/-- The Ring Port Unit (01). `buffers`: the occupied receive buffers of both ports, in order of arrival. -/
structure Ring where
  east : PortState
  west : PortState
  buffers : List Buffered
  answers : List Answer
  ownSequence : Byte
  retired : Option Byte
  badFrame : Word16
  overflow : Word16
  refusedSource : Word16
  bypass : Bool
  head : Head
  deriving DecidableEq, Repr

/-- The kinds of reset, for the code of DEVICE_RESET (09 R186). -/
inductive ResetKind where
  | power
  | line
  | soft
  deriving DecidableEq, Repr

/-- The supplies and the RESET input, and the reset that start-up will report (01 R2). -/
structure Lines where
  supplies : Bool
  resetLow : Bool
  kind : ResetKind
  deriving DecidableEq, Repr

/-- The state of the part, the queue of commands waiting, and the counter of the free value (log 5). -/
structure State where
  nv : Nv
  core : Core
  handler : Handler
  ring : Ring
  lines : Lines
  fresh : Nat
  pending : List Instr
  deriving DecidableEq, Repr

/-- Why the part would stop. The spec describes nothing that stops it, so there is no reason: nobody raises one (safe). -/
inductive Fault where
  deriving DecidableEq, Repr

/-- Why a command would have no meaning. -/
inductive Refusal where
  /-- An arm of `exec` without a meaning raises it (safe); no arm does. -/
  | notModelled (mnemonic : String)
  deriving DecidableEq, Repr

/-! ### Reset values -/

/-- Tables with every entry absent. -/
def Tables.empty : Tables := ⟨[], [], [], []⟩

/-- A bank as it leaves the factory: marked INVALID (02); its contents are the model's choice (log 7). -/
def Bank.factory : Bank := ⟨.empty, [], false⟩

/-- The settings at their defaults (09 R180). -/
def Settings.factory : Settings := ⟨250, 1, 0, 10, 300, 3, 12, 512, 0, 0⟩

/-- The non-volatile state as it leaves the factory (02, 09 R180). -/
def Nv.factory : Nv := ⟨.factory, .factory, .a, 0, [], .factory⟩

/-- The Table Store at a reset, before the start-up check begins (02 R28, R34, R37; 03 R39, R40, R46). -/
def TableStore.reset : TableStore :=
  { valid := false, checking := false, map := [], corrections := 0, dynamic := [], lock := false,
    shadow := .empty, window := none, compile := .idle, last := none }

/-- The six deciding blocks and the notice queue at a reset, before start-up begins; `picks` is kept from before (log 14). -/
def Core.reset (picks : Nat) : Core :=
  { ts := .reset
    wu := ⟨[], []⟩
    lu := ⟨[], [], []⟩
    ic := { mode := .halt, mask := 0, table := [], nextNumber := 1, raises := 0, rotations := 0, alert := false,
            picks := picks }
    ip := ⟨.idle, []⟩
    ds := ⟨[], [], []⟩
    log := ⟨[], 0, 0, 0⟩ }

/-- A port after a power-on or line reset (01). -/
def PortState.reset : PortState := ⟨false, .idle, []⟩

/-- The Ring Port Unit after a power-on or line reset, BYPASS engaged (01 R2). -/
def Ring.reset : Ring :=
  { east := .reset, west := .reset, buffers := [], answers := [], ownSequence := 0, retired := none,
    badFrame := 0, overflow := 0, refusedSource := 0, bypass := true, head := ⟨false, false, none⟩ }

/-- The DEVICE_RESET notice with which start-up begins (01 R2, 09 R186). -/
def Notice.deviceReset (code : Nat) : Notice :=
  ⟨.deviceReset, 0, 0, Config.none16, Config.none16, code⟩

/-- The part as it leaves the factory, just powered on with RESET high: start-up is under way, the start-up check runs,
BYPASS is engaged and DEVICE_RESET(POWER) is the one notice (01 R2, 02 R27, 09 R186; log 7). -/
def State.reset : State :=
  { nv := .factory
    core := { Core.reset 0 with
      ts := { TableStore.reset with checking := true }
      log := ⟨[.deviceReset 1], 0, 0, 1⟩ }
    handler := .ready
    ring := .reset
    lines := ⟨true, false, .power⟩
    fresh := 0
    pending := [] }

end Sys2Proof.Machine
end

