-- ==== Sys2Proof/Machine/Operands.lean ====
section
/-! DEFINITION. Reading and writing bytes: multi-byte fields, table records, request arguments, frames and their CRC. -/

namespace Sys2Proof.Machine

/-! ### Multi-byte fields, most significant byte first (09 R187) -/

/-- The byte at an offset; 0 past the end. -/
def byteAt (xs : List Byte) (i : Nat) : Byte := xs.getD i 0

/-- The number in one byte. -/
def u8 (xs : List Byte) (i : Nat) : Nat := (byteAt xs i).toNat

/-- The number in two bytes. -/
def u16 (xs : List Byte) (i : Nat) : Nat := u8 xs i * 256 + u8 xs (i + 1)

/-- The number in four bytes. -/
def u32 (xs : List Byte) (i : Nat) : Nat := u16 xs i * 65536 + u16 xs (i + 2)

/-- A number written in one byte. -/
def put8 (n : Nat) : List Byte := [BitVec.ofNat 8 n]

/-- A number written in two bytes. -/
def put16 (n : Nat) : List Byte := [BitVec.ofNat 8 (n / 256), BitVec.ofNat 8 n]

/-- A number written in four bytes. -/
def put32 (n : Nat) : List Byte := put16 (n / 65536) ++ put16 (n % 65536)

/-- A flag written in one byte. -/
def putFlag (b : Bool) : List Byte := [if b then 1 else 0]

/-- A timer's remaining time in four bytes; a stopped timer reads FFFFFFFFh (04 R79, 08 R173). -/
def putTimer (t : Option Nat) : List Byte := put32 (t.getD Config.none32)

/-! ### Table records (09 R190) -/

/-- The record in 12 bytes. -/
def Record.ofBytes : List Byte → Option Record
  | [b0, b1, b2, b3, b4, b5, b6, b7, b8, b9, b10, b11] => some ⟨b0, b1, b2, b3, b4, b5, b6, b7, b8, b9, b10, b11⟩
  | _ => none

/-- The 12 bytes of a record. -/
def Record.bytes (r : Record) : List Byte :=
  [r.b0, r.b1, r.b2, r.b3, r.b4, r.b5, r.b6, r.b7, r.b8, r.b9, r.b10, r.b11]

/-- The records in a run of bytes, 12 each; bytes that do not fill a record are left. -/
def recordsOf : List Byte → List Record
  | b0 :: b1 :: b2 :: b3 :: b4 :: b5 :: b6 :: b7 :: b8 :: b9 :: b10 :: b11 :: rest =>
    ⟨b0, b1, b2, b3, b4, b5, b6, b7, b8, b9, b10, b11⟩ :: recordsOf rest
  | _ => []

/-- The presence flag: the lowest bit of byte 0. -/
def Record.present (r : Record) : Bool := r.b0.getLsbD 0

/-- The number in two record bytes. -/
def pair (hi lo : Byte) : Nat := hi.toNat * 256 + lo.toNat

/-- The fields of a Segment Table record (02 R19). -/
structure SegmentRecord where
  zone : Nat
  cls : Nat
  source : Bool
  protect : Bool
  sMin : Nat
  deriving DecidableEq, Repr

/-- The fields of a Valve Table record (02 R20); `normal` is the normal-position byte, 0 OPEN and 1 CLOSED. -/
structure ValveRecord where
  sideA : Nat
  sideB : Nat
  station : Nat
  channel : Nat
  stroke : Nat
  rank : Nat
  surge : Nat
  normal : Nat
  deriving DecidableEq, Repr

/-- The fields of a Sensor Table record (02 R21); `kind` is the kind byte, 0 PRESSURE and 1 FLOW. -/
structure SensorRecord where
  station : Nat
  channel : Nat
  kind : Nat
  home : Nat
  shift : Nat
  threshold : Nat
  persistence : Nat
  timeout : Nat
  deriving DecidableEq, Repr

/-- The fields of an Association Table record (02 R22). -/
structure AssociationRecord where
  sensor : Nat
  segment : Nat
  weight : Nat
  deriving DecidableEq, Repr

/-- A record read as a segment. -/
def Record.segment (r : Record) : SegmentRecord :=
  ⟨r.b1.toNat, r.b2.toNat, r.b3.getLsbD 0, r.b3.getLsbD 1, pair r.b4 r.b5⟩

/-- A record read as a valve. -/
def Record.valve (r : Record) : ValveRecord :=
  ⟨pair r.b1 r.b2, pair r.b3 r.b4, r.b5.toNat, r.b6.toNat, pair r.b7 r.b8, r.b9.toNat, r.b10.toNat, r.b11.toNat⟩

/-- A record read as a sensor. -/
def Record.sensor (r : Record) : SensorRecord :=
  ⟨r.b1.toNat, r.b2.toNat, r.b3.toNat, pair r.b4 r.b5, r.b6.toNat, pair r.b7 r.b8, r.b9.toNat, pair r.b10 r.b11⟩

/-- A record read as an association. -/
def Record.association (r : Record) : AssociationRecord :=
  ⟨r.b1.toNat, pair r.b2 r.b3, r.b4.toNat⟩

/-- A record of zeros, as READ ENTRY gives for an entry that is ABSENT or POISONED (09 R189). -/
def Record.zero : Record := ⟨0, 0, 0, 0, 0, 0, 0, 0, 0, 0, 0, 0⟩

/-! ### Argument codes (09, codes table) -/

/-- A table code. -/
def tableOfCode : Nat → Option TableName
  | 0 => some .segment
  | 1 => some .valve
  | 2 => some .sensor
  | 3 => some .association
  | _ => none

/-- A mode code. -/
def modeOfCode : Nat → Option Mode
  | 0 => some .halt
  | 1 => some .watch
  | 2 => some .advise
  | _ => none

/-- A position code of a POSITION report (08 R150). -/
def positionOfCode : Nat → Option Position
  | 0 => some .opened
  | 1 => some .closed
  | 2 => some .mid
  | 3 => some .unknown
  | _ => none

/-- A motion code of a POSITION report (08 R150). -/
def motionOfCode : Nat → Option MotionCode
  | 0 => some .idle
  | 1 => some .moving
  | 2 => some .jammed
  | _ => none

/-- The banks READ ENTRY names (03 R45). -/
inductive ReadBank where
  | active
  | inactive
  | shadow
  deriving DecidableEq, Repr

/-- A bank code of READ ENTRY. -/
def readBankOfCode : Nat → Option ReadBank
  | 0 => some .active
  | 1 => some .inactive
  | 2 => some .shadow
  | _ => none

/-! ### Frames (01, 09 R187) -/

/-- One bit into the check register (01 R4). -/
def crcBit (r : Word16) (bit : Bool) : Word16 :=
  if r.msb == bit then r <<< 1 else (r <<< 1) ^^^ 0x1021

/-- One byte into the check register, most significant bit first (01 R4). -/
def crcByte (r : Word16) (b : Byte) : Word16 :=
  [7, 6, 5, 4, 3, 2, 1, 0].foldl (fun r i => crcBit r (b.getLsbD i)) r

/-- The check value of a header and body (01 R4). -/
def crc16 (xs : List Byte) : Word16 := xs.foldl crcByte 0xFFFF

/-- A frame as it is sent: header, body, check value (01 R4, 09 R187). -/
def mkFrame (h : Header) (kind : Byte) (body : List Byte) : List Byte :=
  let text := [h.dest, h.source, kind, h.sequence, BitVec.ofNat 8 body.length] ++ body
  text ++ put16 (crc16 text).toNat

/-- The fields of an arriving frame's header. -/
def frameDest (f : List Byte) : Byte := byteAt f 0
/-- The source field. -/
def frameSource (f : List Byte) : Byte := byteAt f 1
/-- The kind field. -/
def frameKind (f : List Byte) : Nat := u8 f 2
/-- The sequence field. -/
def frameSequence (f : List Byte) : Byte := byteAt f 3
/-- The body length field. -/
def frameLength (f : List Byte) : Nat := u8 f 4
/-- The body of a frame whose size agrees with its length field. -/
def frameBody (f : List Byte) : List Byte := (f.drop 5).take (frameLength f)

/-- Whether a destination is one a frame may carry: 1 to 250, or 255 (01). -/
def destOk (b : Byte) : Bool := stationOk b || b == 255

/-- The checks of 01 R6 on a frame that has taken a buffer. -/
def frameOk (f : List Byte) : Bool :=
  7 ≤ f.length && frameLength f ≤ 240 && f.length == 7 + frameLength f
    && crc16 (f.take (5 + frameLength f)) == BitVec.ofNat 16 (u16 f (5 + frameLength f))
    && destOk (frameDest f) && stationOk (frameSource f)

/-- A reading of a SAMPLE: station channel, quality SUSPECT, value (01). -/
structure Reading where
  channel : Nat
  suspect : Bool
  value : Nat
  deriving DecidableEq, Repr

/-- The readings from an offset on, four bytes each; none if a channel or quality code is outside its set (01 R11). -/
def readingsOf (body : List Byte) (start : Nat) : Nat → Option (List Reading)
  | 0 => some []
  | n + 1 =>
    if u8 body start ≤ 7 ∧ u8 body (start + 1) ≤ 1 then
      (readingsOf body (start + 4) n).map (⟨u8 body start, u8 body (start + 1) == 1, u16 body (start + 2)⟩ :: ·)
    else none

/-- A SAMPLE body, if it is well formed: station time and readings (01 R11). -/
def sampleOf (body : List Byte) : Option (Nat × List Reading) :=
  if 1 ≤ u8 body 4 ∧ u8 body 4 ≤ 8 ∧ body.length = 5 + 4 * u8 body 4 then
    (readingsOf body 5 (u8 body 4)).map (u32 body 0, ·)
  else none

/-- A POSITION report: actuator channel, position, motion, token (01 R13). -/
structure Report where
  channel : Nat
  position : Position
  motion : MotionCode
  token : Nat
  deriving DecidableEq, Repr

/-- A POSITION body, if it is well formed (01 R13). -/
def positionOf (body : List Byte) : Option Report :=
  if body.length = 4 ∧ u8 body 0 ≤ 15 then
    match positionOfCode (u8 body 1), motionOfCode (u8 body 2) with
    | some p, some m => some ⟨u8 body 0, p, m, u8 body 3⟩
    | _, _ => none
  else none

end Sys2Proof.Machine
end

