-- ==== Sys2Proof/Machine/Flags.lean ====
section
/-! DEFINITION. Codes, flag bytes and saturating counts of the part (09, codes table; 09 R176, R179). -/

namespace Sys2Proof

/-- Table codes. -/
def TableName.code : TableName → Nat
  | .segment => 0
  | .valve => 1
  | .sensor => 2
  | .association => 3

/-- The codes of banks A and B (STATUS, SWAP_DONE). -/
def BankId.code : BankId → Nat
  | .a => 0
  | .b => 1

/-- Area numbers (02 R31). -/
def Area.code : Area → Nat
  | .segment => 0
  | .valve => 1
  | .sensor => 2
  | .association => 3
  | .segmentIndex => 4
  | .sensorIndex => 5
  | .stationIndex => 6

end Sys2Proof

namespace Sys2Proof.Machine

/-- A 16-bit counter incremented once; it stays at 65535 (09 R179). -/
def satInc (x : Word16) : Word16 := if x = 65535 then x else x + 1

/-- Operating mode codes. -/
def Mode.code : Mode → Nat
  | .halt => 0
  | .watch => 1
  | .advise => 2

/-- Incident state codes (06, section 6.4). -/
def IncidentState.code : IncidentState → Nat
  | .pending => 1
  | .planning => 2
  | .awaitingConsent => 3
  | .isolating => 4
  | .suspending => 5
  | .suspended => 6
  | .confirming => 7
  | .isolated => 8
  | .unconfirmed => 9
  | .stalled => 10
  | .restoring => 11

/-- Fault cause codes. -/
def FaultCause.code : FaultCause → Nat
  | .noResponse => 1
  | .jammed => 2
  | .overrun => 3
  | .stoppedShort => 4
  | .held => 5
  | .unusable => 6

/-- Stall cause codes. -/
def StallCause.code : StallCause → Nat
  | .unbounded => 1
  | .tooLarge => 2
  | .listFull => 3
  | .tableError => 4

/-- The stall cause byte, 0 for none. -/
def stallCode : Option StallCause → Nat
  | none => 0
  | some c => c.code

/-- Compile result codes. -/
def CompileResult.code : CompileResult → Nat
  | .ok => 0
  | .badField => 1
  | .badEndpoint => 2
  | .badReference => 3
  | .duplicate => 4
  | .boundaryOverflow => 5
  | .noSource => 6
  | .conflict => 7
  | .assocOverflow => 8
  | .writeFailed => 9

/-- Compile state codes (STATUS). -/
def CompileState.code : CompileState → Nat
  | .idle => 0
  | .compiling _ => 1
  | .swapPending => 2

/-- Channel state codes. -/
def ChannelState.code : ChannelState → Nat
  | .quiet => 0
  | .suspect => 1
  | .tripped => 2
  | .attributed => 3
  | .inhibited => 4
  | .stale => 5

/-- Position codes, as notices and answers carry them (08 R150). -/
def Position.code : Position → Nat
  | .opened => 0
  | .closed => 1
  | .mid => 2
  | .unknown => 3

/-- Action codes. -/
def Action.code : Action → Nat
  | .close => 1
  | .reopen => 2

/-- The last-action byte, 0 for none. -/
def actionCode : Option Action → Nat
  | none => 0
  | some a => a.code

/-- The position a motion is to reach (08 R155). -/
def Action.target : Action → Position
  | .close => .closed
  | .reopen => .opened

/-- Valve status codes. -/
def ValveMark.code : ValveMark → Nat
  | .normal => 0
  | .moving => 1
  | .failed => 2

/-- Condition codes of a place (READ VALVE). -/
def markCode : Option Mark → Nat
  | none => 0
  | some .corrected => 1
  | some .poisoned => 2

/-- Role codes. -/
def Role.code : Role → Nat
  | .boundary => 0
  | .interior => 1

/-- Progress codes (READ INCIDENT, CLOSURE and REOPEN). -/
def Progress.code : Progress → Nat
  | .queued => 0
  | .inMotion => 1
  | .done => 2
  | .faulted _ => 3
  | .skipped => 4

/-- The fault cause byte of an entry, 0 unless FAULTED. -/
def Progress.faultCode : Progress → Nat
  | .faulted c => c.code
  | _ => 0

/-- Whether an entry has come to its end: CLOSED or DONE, FAULTED, or SKIPPED (06 R109, 08 R159). -/
def Progress.ended : Progress → Bool
  | .queued => false
  | .inMotion => false
  | _ => true

/-- Whether an entry is FAULTED. -/
def Progress.isFaulted : Progress → Bool
  | .faulted _ => true
  | _ => false

/-- Raise cause codes. -/
def RaiseCause.code : RaiseCause → Nat
  | .detected => 0
  | .manual => 1

/-- The flags byte of a SUMMARY: UNVERIFIED 1, RELEASE_REQUESTED 2, REPLAN_OWED 4. -/
def Incident.flags (i : Incident) : Nat :=
  (if i.unverified then 1 else 0) + (if i.releaseRequested then 2 else 0) + (if i.owed then 4 else 0)

/-- The consent causes byte: ADVISE 1, PROTECTED 2, OUTAGE_LIMIT 4. -/
def Causes.code (c : Causes) : Nat :=
  (if c.advise then 1 else 0) + (if c.protect then 2 else 0) + (if c.outageLimit then 4 else 0)

/-- Result codes (09 R176). -/
def Result.code : Result → Nat
  | .done => 0
  | .started => 1
  | .busy => 2
  | .badRequest => 3
  | .wrongMode => 4
  | .notFound => 5
  | .locked => 6
  | .refused _ => 7
  | .noWindow => 8

/-- The reason byte, 0 with every result except REFUSED (09 R176). -/
def Result.reason : Result → Nat
  | .refused .covered => 1
  | .refused .full => 2
  | .refused .noTables => 3
  | .refused .state => 4
  | _ => 0

/-- Notice kind codes (09). -/
def NoticeKind.code : NoticeKind → Nat
  | .deviceReset => 0x01
  | .modeChanged => 0x02
  | .compileDone => 0x10
  | .swapDone => 0x11
  | .tableError => 0x12
  | .burstSeen => 0x20
  | .locateEmpty => 0x21
  | .tableFull => 0x22
  | .incidentState => 0x30
  | .planReady => 0x31
  | .valveFault => 0x40
  | .lateReport => 0x41
  | .reopenSkipped => 0x42
  | .valveDisturbed => 0x43
  | .sensorStale => 0x50

/-- The codes of DEVICE_RESET (09 R186). -/
def ResetKind.code : ResetKind → Nat
  | .power => 1
  | .line => 2
  | .soft => 3

/-- The state codes of a slot that is not IDLE (READ VALVE). -/
def Phase.code : Phase → Nat
  | .issued => 1
  | .moving => 2

/-- The body of a NOTICE (09). -/
def Notice.body (n : Notice) : List Byte :=
  put8 n.kind.code ++ put32 n.time.toNat ++ put8 n.incident ++ put16 n.valve ++ put16 n.segment ++ put8 n.code

/-- The body of an ANSWER (09 R175). -/
def Answer.body (a : Answer) : List Byte :=
  [a.origin.kind, a.origin.tag] ++ put8 a.result.code ++ put8 a.result.reason ++ a.data

/-- The body of a DRIVE (09). -/
def Drive.body (d : Drive) : List Byte :=
  put8 d.channel ++ put8 d.action.code ++ put16 d.stroke ++ put8 d.token

end Sys2Proof.Machine
end

