-- ==== Sys2Proof/Machine/Ops.lean ====
section
/-! DEFINITION. The named operations: arrays by index, banks and their index records, checked reads, notices, accessors. -/

namespace Sys2Proof

/-- The other bank. -/
def BankId.other : BankId → BankId
  | .a => .b
  | .b => .a

/-- The area of a table's entries. -/
def TableName.area : TableName → Area
  | .segment => .segment
  | .valve => .valve
  | .sensor => .sensor
  | .association => .association

/-- A place as an index into the condition map and the damage of a bank. -/
def Place.key (p : Place) : Nat := p.area.code * 2048 + p.index

/-- The area with a number. -/
def areaOfCode : Nat → Area
  | 0 => .segment
  | 1 => .valve
  | 2 => .sensor
  | 3 => .association
  | 4 => .segmentIndex
  | 5 => .sensorIndex
  | _ => .stationIndex

/-- The place with a key. -/
def Place.ofKey (k : Nat) : Place := ⟨areaOfCode (k / 2048), k % 2048⟩

end Sys2Proof

namespace Sys2Proof.Machine

/-! ### Arrays by index -/

/-- The value at an index, if it is listed. -/
def Sparse.at? {α : Type} (m : Sparse α) (k : Nat) : Option α :=
  match m with
  | [] => none
  | (i, a) :: rest => if i = k then some a else Sparse.at? rest k

/-- The value at an index; `d` where it is not listed. -/
def Sparse.atD {α : Type} (m : Sparse α) (d : α) (k : Nat) : α := (m.at? k).getD d

/-- The array with a value put at an index. -/
def Sparse.put {α : Type} (m : Sparse α) (k : Nat) (v : α) : Sparse α :=
  match m with
  | [] => [(k, v)]
  | (i, a) :: rest =>
    if k < i then (k, v) :: (i, a) :: rest
    else if k = i then (k, v) :: rest
    else (i, a) :: Sparse.put rest k v

/-- The array with nothing listed at an index. -/
def Sparse.del {α : Type} (m : Sparse α) (k : Nat) : Sparse α :=
  match m with
  | [] => []
  | (i, a) :: rest => if i = k then Sparse.del rest k else (i, a) :: Sparse.del rest k

/-- The array with a value put at an index, or nothing listed there where the value is `d`. -/
def Sparse.putD {α : Type} [DecidableEq α] (m : Sparse α) (d : α) (k : Nat) (v : α) : Sparse α :=
  if v = d then m.del k else m.put k v

/-- The listed indexes, rising. -/
def Sparse.keys {α : Type} (m : Sparse α) : List Nat := m.map Prod.fst

/-- Whether an index is listed. -/
def Sparse.has {α : Type} (m : Sparse α) (k : Nat) : Bool := (m.at? k).isSome

/-- Every listed index lies above `lo`, and the indexes rise strictly. -/
def Sparse.risingFrom {α : Type} (lo : Nat) (m : Sparse α) : Bool :=
  match m with
  | [] => true
  | (i, _) :: rest => lo ≤ i && Sparse.risingFrom (i + 1) rest

/-- The canonical form of an array: its indexes rise strictly. -/
def Sparse.wf {α : Type} (m : Sparse α) : Bool := m.risingFrom 0

/-- The canonical form of an array whose unlisted entries read `d`: besides, no listed value equals `d`. -/
def Sparse.wfD {α : Type} [DecidableEq α] (d : α) (m : Sparse α) : Bool := m.wf && m.all (fun p => p.2 ≠ d)

/-! ### Ordered lists -/

/-- A value put before the first that it precedes. -/
def insertBy {α : Type} (before : α → α → Bool) (x : α) : List α → List α
  | [] => [x]
  | y :: rest => if before x y then x :: y :: rest else y :: insertBy before x rest

/-- A list sorted; values of which neither precedes the other keep their order. -/
def sortBy {α : Type} (before : α → α → Bool) : List α → List α
  | [] => []
  | x :: rest => insertBy (fun a b => !before b a) x (sortBy before rest)

/-- A list without its later repeats. -/
def distinct : List Nat → List Nat
  | [] => []
  | x :: rest => x :: (distinct rest).filter (fun y => y ≠ x)

/-! ### Banks and index records (02) -/

/-- A bank by its name. -/
def Nv.bank (nv : Nv) : BankId → Bank
  | .a => nv.bankA
  | .b => nv.bankB

/-- The non-volatile state with a bank replaced. -/
def Nv.setBank (nv : Nv) (id : BankId) (b : Bank) : Nv :=
  match id with
  | .a => { nv with bankA := b }
  | .b => { nv with bankB := b }

/-- The active bank (02 R26). -/
def Nv.active (nv : Nv) : Bank := nv.bank nv.selector

/-- The inactive bank (02 R26). -/
def Nv.inactive (nv : Nv) : Bank := nv.bank nv.selector.other

/-- The non-volatile state with the inactive bank replaced. -/
def Nv.setInactive (nv : Nv) (b : Bank) : Nv := nv.setBank nv.selector.other b

/-- A table by its name. -/
def Tables.of (t : Tables) : TableName → Sparse Record
  | .segment => t.segments
  | .valve => t.valves
  | .sensor => t.sensors
  | .association => t.associations

/-- The tables with one replaced. -/
def Tables.setTable (t : Tables) (n : TableName) (m : Sparse Record) : Tables :=
  match n with
  | .segment => { t with segments := m }
  | .valve => { t with valves := m }
  | .sensor => { t with sensors := m }
  | .association => { t with associations := m }

/-- A record written into an entry: with its presence flag clear it makes the entry absent (03 R39). -/
def Tables.write (t : Tables) (n : TableName) (i : Nat) (r : Record) : Tables :=
  t.setTable n (if r.present then (t.of n).put i r else (t.of n).del i)

/-- The other side of a valve, seen from a segment it names (02 R23). -/
def ValveRecord.across (v : ValveRecord) (g : Nat) : Nat := if v.sideA = g then v.sideB else v.sideA

/-- The boundary list of a segment index record: (valve, other side), in ascending valve index (02 R23). -/
def Tables.boundary (t : Tables) (g : Nat) : List (Nat × Nat) :=
  (t.valves.filter fun p => p.2.valve.sideA == g || p.2.valve.sideB == g).map fun p => (p.1, p.2.valve.across g)

/-- The segment association list of a segment index record, in ascending association index (02 R23). -/
def Tables.associationList (t : Tables) (g : Nat) : List Nat :=
  (t.associations.filter fun p => p.2.association.segment == g).map Prod.fst

/-- A sensor index record: the lowest and highest association that names the sensor, or none (02 R24). -/
def Tables.sensorIndex (t : Tables) (i : Nat) : Option (Nat × Nat) :=
  match (t.associations.filter fun p => p.2.association.sensor == i).map Prod.fst with
  | [] => none
  | lo :: rest => some (lo, rest.getLastD lo)

/-- The present associations of a sensor's run (02 R24). -/
def Tables.run (t : Tables) (i : Nat) : Sparse Record :=
  match t.sensorIndex i with
  | none => []
  | some (lo, hi) => t.associations.filter fun p => lo ≤ p.1 && p.1 ≤ hi

/-- The actuator lookup of a station index record (02 R25). -/
def Tables.actuator (t : Tables) (station channel : Nat) : Option Nat :=
  (t.valves.find? fun p => p.2.valve.station == station && p.2.valve.channel == channel).map Prod.fst

/-- The sensor lookup of a station index record (02 R25). -/
def Tables.sensorAt (t : Tables) (station channel : Nat) : Option Nat :=
  (t.sensors.find? fun p => p.2.sensor.station == station && p.2.sensor.channel == channel).map Prod.fst

/-- Whether a bank stores a check code at a place: each present entry has one, and each index record (02; log 6). -/
def Tables.holds (t : Tables) (p : Place) : Bool :=
  match p.area with
  | .segment => t.segments.has p.index
  | .valve => t.valves.has p.index
  | .sensor => t.sensors.has p.index
  | .association => t.associations.has p.index
  | .segmentIndex | .sensorIndex | .stationIndex => p.wellFormed

/-- What the check code at a place shows (02 R29). -/
def Bank.wrongAt (b : Bank) (p : Place) : Option Wrong :=
  if b.tables.holds p then b.damage.at? p.key else none

/-! ### Notices (09 R185) -/

/-- A further part of an event begins, which its rule puts after the parts before it: the notices it creates join behind those
queued so far (09 R185; log 15). -/
def beginPart (c : Core) : Core := { c with log := { c.log with seam := c.log.notices.length } }

/-- A notice is queued, or lost and counted where the queue holds 32 (09 R185). -/
def notify (kind : NoticeKind) (incident valve segment code : Nat) (c : Core) : Core :=
  if c.log.notices.length < Config.noticePlaces then
    { c with log := { c.log with notices := c.log.notices ++ [⟨kind, c.log.time, incident, valve, segment, code⟩] } }
  else { c with log := { c.log with lost := satInc c.log.lost } }

/-- A list with an item put behind its first `k`. -/
def insertAt {α : Type} (k : Nat) (x : α) (xs : List α) : List α := xs.take k ++ x :: xs.drop k

/-- A TABLE_ERROR is queued. No event's rule orders it against the event's other notices, and its rule, 02 R31, comes before
theirs, so it joins behind the event's TABLE_ERRORs and ahead of its other notices; with 32 queued the last of these is lost
for it, or, where there is none, itself (09 R185; log 15). -/
def notifyTableError (valve segment code : Nat) (c : Core) : Core :=
  let n : Notice := ⟨.tableError, c.log.time, 0, valve, segment, code⟩
  let joined := insertAt c.log.seam n c.log.notices
  if c.log.notices.length < Config.noticePlaces then
    { c with log := { c.log with notices := joined, seam := c.log.seam + 1 } }
  else if c.log.seam < c.log.notices.length then
    { c with log := { c.log with notices := joined.dropLast, lost := satInc c.log.lost, seam := c.log.seam + 1 } }
  else { c with log := { c.log with lost := satInc c.log.lost } }

/-! ### Checked reads of the active bank (02 R28-R33) -/

/-- What a reader of an entry is given (02 R29). -/
inductive Seen where
  | absent
  | value (r : Record)
  | poisoned
  deriving DecidableEq, Repr

/-- Segments are put on the list of those to be recomputed (05 R81). -/
def markDirty (gs : List Nat) (c : Core) : Core :=
  { c with lu := { c.lu with dirty := c.lu.dirty ++ (distinct gs).filter fun g => !c.lu.dirty.contains g } }

/-- A TABLE_ERROR notice: condition 1 CORRECTED, 2 POISONED (02 R31). -/
def tableError (p : Place) (condition : Nat) (c : Core) : Core :=
  let code := 16 * p.area.code + condition
  match p.area with
  | .segment | .segmentIndex => notifyTableError Config.none16 p.index code c
  | .valve | .sensor | .association | .sensorIndex | .stationIndex => notifyTableError p.index Config.none16 code c

/-- A place of the condition map is marked. -/
def setMark (p : Place) (m : Mark) (c : Core) : Core :=
  { c with ts := { c.ts with map := c.ts.map.put p.key m } }

/-- The mark of a place (02 R29). -/
def markAt (c : Core) (p : Place) : Option Mark := c.ts.map.at? p.key

/-- Whether the condition map holds a place POISONED. -/
def poisonedAt (c : Core) (p : Place) : Bool := markAt c p == some .poisoned

/-- The segments that have a term to change where a place is found POISONED: a segment's own place, the segment of an association,
and the segments of a sensor's associations but for those already POISONED, which add nothing (05 R80, R81). That this makes no read of the associations, which a POISONED
sensor's run can no longer give, is the model's choice too (log 24). -/
def bearsOn (nv : Nv) (p : Place) (c : Core) : List Nat :=
  match p.area with
  | .segment | .segmentIndex => [p.index]
  | .association =>
    match nv.active.tables.associations.at? p.index with
    | some r => [r.association.segment]
    | none => []
  | .sensor | .sensorIndex =>
    (nv.active.tables.associations.filter fun q =>
      q.2.association.sensor == p.index && !poisonedAt c ⟨.association, q.1⟩).map fun q => q.2.association.segment
  | .valve | .stationIndex => []

/-- A read tests the check code of a place of the active bank: the table of 02 R29, with R30 and R31. -/
def touchPlace (nv : Nv) (p : Place) (c : Core) : Core :=
  match nv.active.wrongAt p, markAt c p with
  | none, _ => c
  | some _, some .poisoned => c
  | some .one, some .corrected => c
  | some .one, none =>
    let c := setMark p .corrected c
    tableError p 1 { c with ts := { c.ts with corrections := satInc c.ts.corrections } }
  | some .two, _ => tableError p 2 (markDirty (bearsOn nv p c) (setMark p .poisoned c))

/-- A block reads an entry of the active bank; in table state NONE nothing is read (02 R28, R29). -/
def touchEntry (nv : Nv) (t : TableName) (i : Nat) (c : Core) : Core :=
  if c.ts.valid && (nv.active.tables.of t).has i then touchPlace nv ⟨t.area, i⟩ c else c

/-- A block reads an index record of the active bank; in table state NONE nothing is read (02 R28, R29). -/
def touchIndex (nv : Nv) (a : Area) (i : Nat) (c : Core) : Core :=
  if c.ts.valid then touchPlace nv ⟨a, i⟩ c else c

/-- What the reader of an entry is given, once the read has been made (02 R28, R29). -/
def seen (nv : Nv) (t : TableName) (i : Nat) (c : Core) : Seen :=
  if c.ts.valid then
    match (nv.active.tables.of t).at? i with
    | none => .absent
    | some r => if poisonedAt c ⟨t.area, i⟩ then .poisoned else .value r
  else .absent

/-- Whether an index record is held POISONED; in table state NONE it is empty and not POISONED (02 R28). -/
def indexPoisoned (a : Area) (i : Nat) (c : Core) : Bool := c.ts.valid && poisonedAt c ⟨a, i⟩

/-- The present indexes of a table of the active bank, ascending; none in table state NONE (02 R28). -/
def presentIn (nv : Nv) (t : TableName) (c : Core) : List Nat :=
  if c.ts.valid then (nv.active.tables.of t).keys else []

/-- The boundary list of a segment; empty in table state NONE (02 R23, R28). -/
def boundaryList (nv : Nv) (g : Nat) (c : Core) : List (Nat × Nat) :=
  if c.ts.valid then nv.active.tables.boundary g else []

/-- A segment is poisoned when its entry or its segment index record is POISONED (02 R32). -/
def segmentPoisoned (nv : Nv) (g : Nat) (c : Core) : Bool :=
  seen nv .segment g c == .poisoned || indexPoisoned .segmentIndex g c

/-! ### Accessors of the blocks -/

/-- A channel context (04). -/
def channelOf (i : Nat) (c : Core) : Channel := c.wu.channels.atD .reset i

/-- A channel context is written. -/
def setChannel (i : Nat) (ch : Channel) (c : Core) : Core :=
  { c with wu := { c.wu with channels := c.wu.channels.putD .reset i ch } }

/-- A segment's score (05). -/
def scoreOf (g : Nat) (c : Core) : Nat := c.lu.scores.atD 0 g

/-- A segment's score is written. -/
def setScore (g n : Nat) (c : Core) : Core :=
  { c with lu := { c.lu with scores := c.lu.scores.putD 0 g n } }

/-- A zone's window (05). -/
def windowOf (z : Nat) (c : Core) : Window := c.lu.windows.atD .closed z

/-- A zone's window is written. -/
def setWindow (z : Nat) (w : Window) (c : Core) : Core :=
  { c with lu := { c.lu with windows := c.lu.windows.putD .closed z w } }

/-- A valve status entry (08). -/
def valveOf (v : Nat) (c : Core) : ValveStatus := c.ds.valves.atD .reset v

/-- A valve status entry is written. -/
def setValve (v : Nat) (x : ValveStatus) (c : Core) : Core :=
  { c with ds := { c.ds with valves := c.ds.valves.putD .reset v x } }

/-- A motion slot; none where it is IDLE (08). -/
def slotOf (k : Nat) (c : Core) : Option Motion := c.ds.slots.at? k

/-- A motion slot is filled. -/
def setSlot (k : Nat) (m : Motion) (c : Core) : Core :=
  { c with ds := { c.ds with slots := c.ds.slots.put k m } }

/-- A motion slot becomes IDLE, and the Ring Port Unit is told (01 R15). -/
def clearSlot (k : Nat) (c : Core) : Core :=
  { c with ds := { c.ds with slots := c.ds.slots.del k, outbox := c.ds.outbox ++ [.discard k] } }

/-- The motion in flight of a valve, with its slot. -/
def motionOf (v : Nat) (c : Core) : Option (Nat × Motion) := c.ds.slots.find? fun p => p.2.valve == v

/-- Whether a motion of an incident is in flight. -/
def inFlight (n : Nat) (c : Core) : Bool := c.ds.slots.any fun p => p.2.owner == n

/-- Whether a valve is held: either of its holds is set (02). -/
def held (nv : Nv) (v : Nat) (c : Core) : Bool := nv.persistent.has v || c.ts.dynamic.has v

/-- The live incidents, in entry order (06). -/
def live (c : Core) : List Incident := c.ic.table.map Prod.snd

/-- The live incident with a number. -/
def incident? (n : Nat) (c : Core) : Option Incident := (live c).find? fun i => i.number == n

/-- The record of an incident is changed. -/
def changeIncident (n : Nat) (f : Incident → Incident) (c : Core) : Core :=
  { c with ic := { c.ic with table := c.ic.table.map fun p => if p.2.number = n then (p.1, f p.2) else p } }

/-- A segment is covered while it lies in the isolation set of a live incident (05 R82). -/
def covered (g : Nat) (c : Core) : Bool := (live c).any fun i => i.isolation.contains g

/-- Live incidents in ascending raise order. -/
def byOrder (is : List Incident) : List Incident := sortBy (fun a b => a.order < b.order) is

/-- An incident entry that is free, if there is one (06 R100). -/
def freeEntries (c : Core) : List Nat := (List.range Config.incidents).filter fun e => !c.ic.table.has e

end Sys2Proof.Machine
end

