-- ==== Sys2Proof/Machine/Score.lean ====
section
/-! DEFINITION. Segment scores and the opening of locate windows (05 R80-R85). -/

namespace Sys2Proof.Machine

/-! ### Scores (05 R80, R81) -/

/-- What an association adds to its segment's score (05 R80). -/
def term (nv : Nv) (a : Nat) (c : Core) : Nat :=
  match seen nv .association a c with
  | .value r =>
    let i := r.association.sensor
    let ch := channelOf i c
    if ch.state = .tripped ∧ seen nv .sensor i c ≠ .poisoned ∧ indexPoisoned .sensorIndex i c = false then
      r.association.weight * min 1023 ch.deviation
    else 0
  | .absent => 0
  | .poisoned => 0

/-- The score a segment has by 05 R80, on the channel contexts and the condition map as they stand. -/
def scoreNow (nv : Nv) (g : Nat) (c : Core) : Nat :=
  match seen nv .segment g c with
  | .value _ =>
    if indexPoisoned .segmentIndex g c then 0
    else min 65535 ((nv.active.tables.associationList g).map fun a => term nv a c).sum
  | .absent => 0
  | .poisoned => 0

/-- The reads of one association of a list at a recomputation: its entry and then at once its sensor's, ahead of the next association's
(05 R81; an order that no rule gives, log 38). -/
def touchTerm (nv : Nv) (c : Core) (a : Nat) : Core :=
  let c := touchEntry nv .association a c
  match seen nv .association a c with
  | .value r =>
    if (channelOf r.association.sensor c).state = .tripped then touchEntry nv .sensor r.association.sensor c else c
  | .absent => c
  | .poisoned => c

/-- The reads of a recomputation: segment entry, segment index record, and each association of the list that the index record
gives, whatever the segment entry's condition, in the order in which 05 R81 names them (log 38). -/
def touchSegment (nv : Nv) (g : Nat) (c : Core) : Core :=
  let c := touchIndex nv .segmentIndex g (touchEntry nv .segment g c)
  if indexPoisoned .segmentIndex g c then c else (nv.active.tables.associationList g).foldl (touchTerm nv) c

/-- A segment's score is recomputed (05 R81). -/
def rescore (nv : Nv) (g : Nat) (c : Core) : Core :=
  let c := touchSegment nv g c
  setScore g (scoreNow nv g c) c

/-! ### Window opening (05 R84) -/

/-- A segment qualifies when it is present, not poisoned, not covered, and its score is at or above its S_min (05 R84). -/
def qualifies (nv : Nv) (g : Nat) (c : Core) : Bool :=
  match seen nv .segment g c with
  | .value r => !indexPoisoned .segmentIndex g c && !covered g c && decide (r.segment.sMin ≤ scoreOf g c)
  | .absent => false
  | .poisoned => false

/-- The test of 05 R84 on one segment: its entry is read, and its zone's window, if CLOSED, opens when it qualifies. -/
def testSegment (nv : Nv) (c : Core) (g : Nat) : Core :=
  let c := touchEntry nv .segment g c
  match seen nv .segment g c with
  | .value r =>
    if windowOf r.segment.zone c = .closed ∧ qualifies nv g c = true then
      setWindow r.segment.zone (.opened (nv.settings.locateWindow * 1000)) c
    else c
  | .absent => c
  | .poisoned => c

/-- Whether the active bank places a segment in a zone. -/
def inZone (nv : Nv) (z g : Nat) (c : Core) : Bool :=
  match seen nv .segment g c with
  | .value r => r.segment.zone == z
  | .absent => false
  | .poisoned => false

/-- The test of 05 R84 on every segment of a zone, ascending: an order that no rule gives (log 38). -/
def testZone (nv : Nv) (z : Nat) (c : Core) : Core :=
  ((presentIn nv .segment c).filter fun g => inZone nv z g c).foldl (testSegment nv) c

/-- Every segment listed is recomputed and tested, until none is left; a read that poisons an entry can list more.
No rule orders the segments of one event; they are taken round by round, in the order in which they were listed (log 38).
The count bounds the rounds: each after the first follows a newly poisoned place, and a bank has 4858 places. -/
def updateScores (nv : Nv) : Nat → Core → Core
  | 0, c => c
  | n + 1, c =>
    match c.lu.dirty with
    | [] => c
    | g :: gs =>
      updateScores nv n
        ((g :: gs).foldl (fun c g => testSegment nv (rescore nv g c) g) { c with lu := { c.lu with dirty := [] } })

/-- The Locate Unit brings every changed score up to date and tests for openings (05 R81, R84). R81 has this done in the event that
changes a term; where in the event is the model's choice, at each place that calls it (log 43). -/
def luUpdate (nv : Nv) (c : Core) : Core := updateScores nv 4860 c

/-- The segments of a sensor's run whose association is not POISONED are to be recomputed. To find the run, the sensor entry and its
sensor index record are read (05 R81), and to find its segments each association entry of the run, since that is a use of the entry
(02 R24, R29; log 40). That the sensor entry is read before its index record, and the associations in ascending index, is the model's
choice, for R81 gives no order (log 38). -/
def touchRun (nv : Nv) (i : Nat) (c : Core) : Core :=
  let c := touchIndex nv .sensorIndex i (touchEntry nv .sensor i c)
  match seen nv .sensor i c with
  | .value _ =>
    if indexPoisoned .sensorIndex i c then c
    else
      let c := (nv.active.tables.run i).foldl (fun c p => touchEntry nv .association p.1 c) c
      markDirty (((nv.active.tables.run i).filter fun p => !poisonedAt c ⟨.association, p.1⟩).map
        fun p => p.2.association.segment) c
  | .absent => c
  | .poisoned => c

end Sys2Proof.Machine
end

