-- ==== Sys2Proof/Machine/Incidents.lean ====
section
/-! DEFINITION. Incidents: state changes, witnesses, coverage, admission to planning, raising, the choice of a zone's
window, ending, completion and restoring (04 R69-R78, 05 R86-R95, 06, 07 R128-R131). -/

namespace Sys2Proof.Machine

/-! ### State changes (06 R124, R125) -/

/-- The states that assert ALERT (06 R125). -/
def IncidentState.alerts : IncidentState → Bool
  | .awaitingConsent => true
  | .unconfirmed => true
  | .stalled => true
  | _ => false

/-- The ALERT line is brought to its level (06 R125). -/
def levelAlert (c : Core) : Core :=
  { c with ic := { c.ic with alert := (live c).any fun i => i.state.alerts } }

/-- A state that an incident has entered is reported: INCIDENT_STATE is queued and ALERT brought to its level (06 R124, R125;
log 22). -/
def reportState (n : Nat) (st : IncidentState) (c : Core) : Core :=
  levelAlert (match incident? n c with
    | some i =>
      notify .incidentState n (if st = .stalled then stallCode i.stall else Config.none16) i.burst st.code c
    | none => c)

/-- An incident changes its state, and the change is reported (06 R124, R125). -/
def changeState (n : Nat) (st : IncidentState) (c : Core) : Core :=
  reportState n st (changeIncident n (fun i => { i with state := st }) c)

/-! ### Witnesses and inhibition (04 R70, R74, R76, R78; 06 R116) -/

/-- Why a channel leaves an attributed list (04 R78). -/
inductive Departure where
  | released
  | stale
  | inhibited
  deriving DecidableEq, Repr

/-- A sensor leaves an incident's attributed list; the list's emptying makes a CONFIRMING or UNCONFIRMED incident ISOLATED
(06 R115, R116). -/
def leaveList (n i : Nat) (why : Departure) (c : Core) : Core :=
  let c := changeIncident n (fun x => { x with
    attributed := x.attributed.filter fun k => k ≠ i
    unverified := x.unverified || decide (why = .stale) }) c
  match incident? n c with
  | some x =>
    if x.attributed = [] ∧ (x.state = .confirming ∨ x.state = .unconfirmed) then
      changeState n .isolated (changeIncident n (fun x => { x with timer := none }) c)
    else c
  | none => c

/-- A channel becomes INHIBITED (04 R74); that the run of a TRIPPED one is found at once is the model's choice (log 38). -/
def inhibitChannel (nv : Nv) (c : Core) (i : Nat) : Core :=
  let ch := channelOf i c
  let c := setChannel i { ch with state := .inhibited, persistence := 0, release := 0, timer := none, incident := none } c
  match ch.state, ch.incident with
  | .attributed, some n => leaveList n i .inhibited c
  | .tripped, _ => touchRun nv i c
  | _, _ => c

/-- The channels whose recorded home segment is a segment, ascending: the order in which those of one event are inhibited, which
no rule gives (log 38). -/
def channelsAt (g : Nat) (c : Core) : List Nat :=
  (c.wu.channels.filter fun p => p.2.home == some g).map Prod.fst

/-- A segment enters coverage: its channels become INHIBITED (04 R74, 05 R90), in ascending sensor index (log 38). -/
def inhibitSegment (nv : Nv) (c : Core) (g : Nat) : Core :=
  ((channelsAt g c).filter fun i => (channelOf i c).state ≠ .inhibited).foldl (inhibitChannel nv) c

/-- A channel leaves INHIBITED (04 R76). -/
def releaseChannel (c : Core) (i : Nat) : Core :=
  let ch := channelOf i c
  setChannel i { ch with state := .quiet, seeded := false, baseline := 0, deviation := 0, persistence := 0, release := 0,
                         timer := none, incident := none } c

/-- A segment leaves coverage: its channels leave INHIBITED (04 R76). -/
def releaseSegment (c : Core) (g : Nat) : Core :=
  ((channelsAt g c).filter fun i => (channelOf i c).state = .inhibited).foldl releaseChannel c

/-- A channel attributed to an ended incident becomes TRIPPED (04 R70); that its run is found at once is the model's choice (log 38). -/
def returnChannel (nv : Nv) (c : Core) (i : Nat) : Core :=
  touchRun nv i (setChannel i { channelOf i c with state := .tripped, incident := none } c)

/-- The channels attributed to an incident, ascending: the order in which they return to TRIPPED at its end, which no rule gives
(04 R70; log 38). -/
def attributedTo (n : Nat) (c : Core) : List Nat :=
  (c.wu.channels.filter fun p => p.2.state == .attributed && p.2.incident == some n).map Prod.fst

/-! ### Admission to planning (07 R128-R132) -/

/-- What the engine reads at an admission (07 R132). -/
def snapshotOf (nv : Nv) (i : Incident) (c : Core) : Snapshot :=
  { isolation := i.isolation, closure := i.closure, passing := i.passing
    persistent := nv.persistent, dynamic := c.ts.dynamic
    valves := c.ds.valves, moving := c.ds.slots.map fun p => p.2.valve
    otherSets := ((live c).filter fun x => x.number ≠ i.number).map fun x => x.isolation
    limit := nv.settings.expansionLimit }

/-- The engine becomes RUNNING for an incident (07 R131). -/
def startPlan (nv : Nv) (i : Incident) (kind : PlanKind) (c : Core) : Core :=
  { c with ip := { c.ip with engine := .running i.order kind (snapshotOf nv i c) } }

/-- Whether a zone is masked (06 R99). -/
def masked (z : Nat) (c : Core) : Bool := c.ic.mask.getLsbD z

/-- The PENDING incident to be admitted first: unmasked zone, lowest class, lowest raise order (07 R130). -/
def nextPending (c : Core) : Option Incident :=
  (sortBy (fun a b => decide (a.cls < b.cls) || (a.cls == b.cls && decide (a.order < b.order)))
    ((live c).filter fun i => i.state = .pending && !masked i.zone c)).head?

/-- The test for an admission, and the admission (07 R130, R131). -/
def admission (nv : Nv) (c : Core) : Core :=
  match c.ip.engine with
  | .running _ _ _ => c
  | .idle =>
    if c.ts.compile = .swapPending then c
    else
      match c.ip.queue with
      | o :: rest =>
        let c := { c with ip := { c.ip with queue := rest } }
        match (live c).find? fun i => i.order == o with
        | some i => startPlan nv i .replan c
        | none => c
      | [] =>
        match nextPending c with
        | some i => startPlan nv i .first (changeState i.number .planning c)
        | none => c

/-- A replan request joins the queue or merges (07 R128), without the admission that follows. -/
def joinQueue (n : Nat) (c : Core) : Core :=
  match incident? n c with
  | some i =>
    if c.ip.queue.contains i.order then c else { c with ip := { c.ip with queue := c.ip.queue ++ [i.order] } }
  | none => c

/-- A replan request joins the queue or merges, and the test for an admission follows (07 R128, R130; log 18). -/
def queueReplan (nv : Nv) (n : Nat) (c : Core) : Core := admission nv (joinQueue n c)

/-- A queued replan request is withdrawn (07 R129). -/
def withdrawReplan (order : Nat) (c : Core) : Core :=
  { c with ip := { c.ip with queue := c.ip.queue.filter fun o => o ≠ order } }

/-! ### Raising (05 R90, R91; 06 R101, R102) -/

/-- The incident number after another, wrapping from 255 to 1 (06 R101). -/
def succNumber (n : Nat) : Nat := if n = 255 then 1 else n + 1

/-- The first number, from one onward, that no live incident holds (06 R101). -/
def firstFree (c : Core) : Nat → Nat → Nat
  | 0, k => k
  | f + 1, k => if (incident? k c).isSome then firstFree c f (succNumber k) else k

/-- The number the next raising gives (06 R101). -/
def raiseNumber (c : Core) : Nat := firstFree c 255 c.ic.nextNumber

/-- A raising that finds the raise counter at its top renumbers the raise orders, keeping their order, in the incidents, the
engine and the queue; an engine that runs for an ended incident then holds 0 (06 R101). -/
def renumberOrders (c : Core) : Core :=
  if c.ic.raises < Config.counterTop then c
  else
    let rank := fun o => ((live c).filter fun i => i.order < o).length + 1
    let isLive := fun o => (live c).any fun i => i.order == o
    { c with
      ic := { c.ic with table := c.ic.table.map fun p => (p.1, { p.2 with order := rank p.2.order })
                        raises := c.ic.table.length }
      ip := { engine := match c.ip.engine with
                | .running o k w => .running (if isLive o then rank o else 0) k w
                | .idle => .idle
              queue := c.ip.queue.map rank } }

/-- The entry a raising takes, and the counter advanced: which of the free ones it is is a free value (log 14). -/
def pickEntry (c : Core) : Option (Nat × Nat) :=
  match freeEntries c with
  | [] => none
  | e :: es => some ((e :: es).getD (Config.freeEntryChoice c.ic.picks % (es.length + 1)) e, c.ic.picks + 1)

/-- The record a raising fills in (06 R102). -/
def newIncident (n g order : Nat) (r : SegmentRecord) (cause : RaiseCause) (score : Nat) : Incident :=
  { number := n, state := .pending, burst := g, zone := r.zone, cls := r.cls, cause := cause, score := score
    order := order, key := 0, isolation := [g], closure := [], passing := [], attributed := []
    outageCount := 0, outage := [], reopen := [], unverified := false, releaseRequested := false, owed := false
    consent := ⟨false, false, false⟩, stall := none, generation := 0, timer := none }

/-- One channel is named at a raising, and attributed if it is TRIPPED (04 R69, 05 R91). That the run of an attributed channel is
found (05 R81) right after its own attribution, ahead of the naming reads of the sensors after it, is the model's choice, for no
rule orders the two; nor does one order an association's read and its sensor's beside the next association's (log 38). -/
def nameWitness (nv : Nv) (n g : Nat) (c : Core) (a : Nat) : Core :=
  let c := touchEntry nv .association a c
  match seen nv .association a c with
  | .value r =>
    let i := r.association.sensor
    let c := touchEntry nv .sensor i c
    let ch := channelOf i c
    if seen nv .sensor i c = .poisoned ∨ indexPoisoned .sensorIndex i c = true ∨ ch.home = some g then c
    else if ch.state = .tripped then
      let c := setChannel i { ch with state := .attributed, incident := some n } c
      touchRun nv i (changeIncident n (fun x => { x with attributed := x.attributed ++ [i] }) c)
    else c
  | .absent => c
  | .poisoned => c

/-- The naming and attribution of channels at a raising (05 R91). -/
def attributeWitnesses (nv : Nv) (n g : Nat) (c : Core) : Core :=
  let c := touchIndex nv .segmentIndex g c
  if indexPoisoned .segmentIndex g c || !c.ts.valid then c
  else (nv.active.tables.associationList g).foldl (nameWitness nv n g) c

/-- An incident is raised on a segment: the record, coverage, inhibition, attribution, INCIDENT_STATE, and the test for an
admission (05 R90, R91, R93; 06 R100-R102). Nothing happens where no entry is free. The scores are brought up to date once all channels
are inhibited and attributed, before the notice (log 43). -/
def raiseIncident (nv : Nv) (g : Nat) (r : SegmentRecord) (cause : RaiseCause) (score : Nat) (c : Core) : Core :=
  match pickEntry c with
  | none => c
  | some (e, picks) =>
    let n := raiseNumber c
    let c := renumberOrders c
    let order := c.ic.raises + 1
    let c := { c with ic := { c.ic with table := c.ic.table.put e (newIncident n g order r cause score)
                                        nextNumber := succNumber n, raises := order, picks := picks } }
    let c := inhibitSegment nv c g
    let c := luUpdate nv (attributeWitnesses nv n g c)
    admission nv (levelAlert (notify .incidentState n Config.none16 g IncidentState.pending.code c))

/-! ### The choice of a zone's window (05 R86-R89) -/

/-- The segment with the highest score, and among equals the first listed (05 R86). -/
def bestOf (c : Core) : List Nat → Option Nat
  | [] => none
  | g :: gs =>
    match bestOf c gs with
    | none => some g
    | some h => if scoreOf g c < scoreOf h c then some h else some g

/-- The candidates of a zone (05 R86). -/
def candidates (nv : Nv) (z : Nat) (c : Core) : List Nat :=
  (presentIn nv .segment c).filter fun g => inZone nv z g c && qualifies nv g c

/-- A zone's window closes and the zone is tested once more (05 R87). -/
def closeWindow (nv : Nv) (z : Nat) (c : Core) : Core := testZone nv z (setWindow z .closed c)

/-- The choice of a zone at an expiry or a rerun, and what follows by the mode and the table (05 R86-R88). The segment entries
are read in ascending index, an order that no rule gives (log 38). That what these reads bear on is recomputed first (R81), and the
choice made on the new scores, is the model's choice: R86 takes the scores as they stand when the expiry is taken, and R80 at every
moment (log 43). -/
def chooseIn (nv : Nv) (z : Nat) (c : Core) : Core :=
  let c := luUpdate nv ((presentIn nv .segment c).foldl (fun c g => touchEntry nv .segment g c) c)
  match bestOf c (candidates nv z c) with
  | none => closeWindow nv z (notify .locateEmpty 0 Config.none16 Config.none16 z c)
  | some g =>
    match seen nv .segment g c with
    | .value r =>
      if c.ic.mode = .halt then
        closeWindow nv z (notify .burstSeen 0 Config.none16 g (scoreOf g c / 256) c)
      else if freeEntries c = [] then
        notify .tableFull 0 Config.none16 g z (setWindow z .deferred c)
      else closeWindow nv z (raiseIncident nv g r.segment .detected (scoreOf g c) c)
    | .absent => c
    | .poisoned => c

/-- A DEFERRED zone reruns its choice; its notices follow those queued so far (05 R89, 06 R123, 09 R185). -/
def rerunZone (nv : Nv) (c : Core) (z : Nat) : Core := chooseIn nv z (setWindow z .closed (beginPart c))

/-- Every DEFERRED zone reruns its choice, in ascending zone number (05 R89). -/
def rerunDeferred (nv : Nv) (c : Core) : Core :=
  ((c.lu.windows.filter fun p => p.2 == .deferred).map Prod.fst).foldl (rerunZone nv) c

/-! ### Ending (06 R123) -/

/-- An incident leaves the table, and its queued replan request is withdrawn (06 R123, 07 R129). -/
def removeIncident (n : Nat) (c : Core) : Core :=
  let c := { c with ic := { c.ic with table := c.ic.table.filter fun p => p.2.number ≠ n } }
  { c with ip := { c.ip with queue := c.ip.queue.filter fun o => (live c).any fun i => i.order == o } }

/-- An incident ENDs, in its five steps; the notices follow those of what brought the ending about (06 R121, R123; 09 R185;
log 15). The segments that leave coverage are taken in joining order, an order that no rule gives (log 38); the scores are brought up
to date once their channels are released, before their tests (log 43). -/
def endIncident (nv : Nv) (n : Nat) (c : Core) : Core :=
  match incident? n c with
  | none => c
  | some i =>
    let c := removeIncident n (beginPart c)
    let c := (attributedTo n c).foldl (returnChannel nv) c
    let left := i.isolation.filter fun g => !covered g c
    let c := luUpdate nv (left.foldl releaseSegment c)
    let c := left.foldl (testSegment nv) c
    let c := levelAlert (notify .incidentState n Config.none16 i.burst 0 c)
    rerunDeferred nv c

/-! ### Completion, faults and restoring (06 R109, R110, R120-R122) -/

/-- Whether the engine is running a plan of a raise order. -/
def planRunning (order : Nat) (c : Core) : Bool :=
  match c.ip.engine with
  | .running o _ _ => o == order
  | .idle => false

/-- An ISOLATING incident is complete when no closure entry is QUEUED or IN_MOTION and no replan of it is queued or running
(06 R109). -/
def isComplete (i : Incident) (c : Core) : Bool :=
  i.state == .isolating && i.closure.all (fun e => e.progress.ended) && !c.ip.queue.contains i.order
    && !planRunning i.order c

/-- The completion test (06 R109). -/
def completionTest (nv : Nv) (n : Nat) (c : Core) : Core :=
  match incident? n c with
  | none => c
  | some i =>
    if isComplete i c then
      if i.attributed = [] then changeState n .isolated (changeIncident n (fun x => { x with unverified := true }) c)
      else
        changeState n .confirming
          (changeIncident n (fun x => { x with timer := some (nv.settings.confirmation * 1000) }) c)
    else c

/-- The Incident Controller is told of a closure entry that became FAULTED (06 R110). -/
def tellFault (nv : Nv) (n : Nat) (c : Core) : Core :=
  match incident? n c with
  | none => c
  | some i =>
    match i.state with
    | .isolating => queueReplan nv n c
    | .suspending => queueReplan nv n c
    | .awaitingConsent => changeIncident n (fun x => { x with owed := true }) c
    | _ => c

/-- A valve gives up one claim (06 R120). -/
def giveUpClaim (c : Core) (v : Nat) : Core :=
  let x := valveOf v c
  setValve v { x with claims := x.claims - 1 } c

/-- Every valve on an incident's closure list gives up the claim the incident holds on it (06 R108, R120). -/
def giveUpClaims (n : Nat) (c : Core) : Core :=
  match incident? n c with
  | none => c
  | some i => (i.closure.map fun e => e.valve).foldl giveUpClaim c

/-- One closure entry at the building of the reopen list: passed over, passed over with a notice, or joining; its notices follow
those of the entries before it, since the entries are taken in list order (06 R121, 09 R185). An absent entry counts as POISONED
(log 26). -/
def reopenScan (nv : Nv) (n : Nat) (acc : List Nat × Core) (e : ClosureEntry) : List Nat × Core :=
  let c := touchEntry nv .valve e.valve (beginPart acc.2)
  let x := valveOf e.valve c
  let normalClosed :=
    match seen nv .valve e.valve c with
    | .value r => r.valve.normal == 1
    | .absent => false
    | .poisoned => false
  if 0 < x.claims ∨ normalClosed = true ∨ x.position = .opened then (acc.1, c)
  else if held nv e.valve c then (acc.1, notify .reopenSkipped n e.valve Config.none16 1 c)
  else
    match x.status, seen nv .valve e.valve c with
    | .failed, _ => (acc.1, notify .reopenSkipped n e.valve Config.none16 2 c)
    | _, .value _ => (acc.1 ++ [e.valve], c)
    | _, _ => (acc.1, notify .reopenSkipped n e.valve Config.none16 2 c)

/-- The rank a valve's entry gives; `d` where it gives none. -/
def rankOr (nv : Nv) (d v : Nat) (c : Core) : Nat :=
  match seen nv .valve v c with
  | .value r => r.valve.rank
  | .absent => d
  | .poisoned => d

/-- What an incident's reopen list is to hold, ordered by rank and valve index descending, once its closure list has been gone
through (06 R121). -/
def reopenList (nv : Nv) (n : Nat) (c : Core) : List Nat × Core :=
  match incident? n c with
  | none => ([], c)
  | some i =>
    let (vs, c) := i.closure.foldl (reopenScan nv n) ([], c)
    (sortBy (fun a b =>
      decide (rankOr nv 7 b c < rankOr nv 7 a c) || (rankOr nv 7 a c == rankOr nv 7 b c && decide (b < a))) vs, c)

/-- The reopen list stands with every entry QUEUED; an empty one ends the incident (06 R121). -/
def startReopen (nv : Nv) (n : Nat) (vs : List Nat) (c : Core) : Core :=
  if vs = [] then endIncident nv n c
  else changeIncident n (fun x => { x with reopen := vs.map fun v => ⟨v, .queued⟩ }) c

/-- The reopen list is built (06 R121). -/
def buildReopen (nv : Nv) (n : Nat) (c : Core) : Core :=
  let x := reopenList nv n c
  startReopen nv n x.1 x.2

/-- An incident becomes RESTORING (06 R120); its reopen list is built at once where no motion of it is in flight, and the notices
of what it passes over come before that of the new state, as the order of 06 R121 and R124 (09 R185). -/
def enterRestoring (nv : Nv) (n : Nat) (c : Core) : Core :=
  match incident? n c with
  | none => c
  | some i =>
    let c := giveUpClaims n (withdrawReplan i.order (changeIncident n (fun x => { x with
      state := .restoring, timer := none, releaseRequested := false, owed := false
      closure := x.closure.map fun e => if e.progress = .queued then { e with progress := .skipped } else e }) c))
    if inFlight n c then reportState n .restoring c
    else
      let x := reopenList nv n c
      startReopen nv n x.1 (reportState n .restoring x.2)

/-- What the Incident Controller does once an entry of an incident has moved or a motion of it has ended (06 R109, R113,
R121, R122; 08 R166). -/
def afterEntry (nv : Nv) (n : Nat) (c : Core) : Core :=
  match incident? n c with
  | none => c
  | some i =>
    match i.state with
    | .isolating => completionTest nv n c
    | .suspending => if inFlight n c then c else changeState n .suspended c
    | .restoring =>
      if inFlight n c then c
      else if i.reopen = [] then buildReopen nv n c
      else if i.reopen.all (fun e => e.progress.ended) then endIncident nv n c
      else c
    | _ => c

end Sys2Proof.Machine
end

