-- ==== Sys2Proof/Machine/Drive.lean ====
section
/-! DEFINITION. Valve drive: grants, drives, POSITION reports, timers, completions and faults (08). -/

namespace Sys2Proof.Machine

/-! ### Entries of an incident, by the action that moves them -/

/-- The progress of an incident's entry for a valve is set: its closure entry for CLOSE, its reopen entry for OPEN. -/
def setProgress (n v : Nat) (a : Action) (p : Progress) (c : Core) : Core :=
  changeIncident n (fun x =>
    match a with
    | .close => { x with closure := x.closure.map fun e => if e.valve = v then { e with progress := p } else e }
    | .reopen => { x with reopen := x.reopen.map fun e => if e.valve = v then { e with progress := p } else e }) c

/-- An entry is FAULTED: VALVE_FAULT is queued, and then the Incident Controller is told of a closure entry, and acts: what that
brings follows the notice (08 R160, R161, R165, R168; 06 R110; 09 R185). -/
def faultEntry (nv : Nv) (n v : Nat) (a : Action) (cause : FaultCause) (c : Core) : Core :=
  let c := beginPart (notify .valveFault n v Config.none16 cause.code (setProgress n v a (.faulted cause) c))
  let c :=
    match a with
    | .close => tellFault nv n c
    | .reopen => c
  afterEntry nv n c

/-- An entry ends without a fault, and the Incident Controller acts (08 R160, R161, R165, R166). -/
def endEntry (nv : Nv) (n v : Nat) (a : Action) (p : Progress) (c : Core) : Core :=
  afterEntry nv n (setProgress n v a p c)

/-! ### Issuing a drive (08 R162, R163; 06 R101) -/

/-- The token after another, from 255 back to 1 (08 R163). -/
def succToken (t : Nat) : Nat := if t = 255 then 1 else t + 1

/-- The token of a valve's next drive: the next one, or the one after it where the valve's echoed token equals it
(08 R163). -/
def nextToken (x : ValveStatus) : Nat :=
  if succToken x.token = x.echo then succToken (succToken x.token) else succToken x.token

/-- A grant that finds the rotation counter at its top renumbers the nonzero keys in their order (06 R101). -/
def renumberKeys (c : Core) : Core :=
  if c.ic.rotations < Config.counterTop then c
  else
    let nonzero := (live c).filter fun i => i.key ≠ 0
    let rank := fun k => if k = 0 then 0 else (nonzero.filter fun i => i.key < k).length + 1
    { c with ic := { c.ic with table := c.ic.table.map fun p => (p.1, { p.2 with key := rank p.2.key })
                               rotations := nonzero.length } }

/-- The rotation key of an incident is refreshed for a grant (06 R101). -/
def refreshKey (n : Nat) (c : Core) : Core :=
  let c := renumberKeys c
  let k := c.ic.rotations + 1
  changeIncident n (fun x => { x with key := k }) { c with ic := { c.ic with rotations := k } }

/-- The lowest-numbered IDLE slot (08 R157). -/
def idleSlot (c : Core) : Option Nat := (List.range Config.slots).find? fun k => !c.ds.slots.has k

/-- A DRIVE is handed to the Ring Port Unit (08 R162, 01 R15). -/
def handDrive (d : Drive) (c : Core) : Core :=
  { c with ds := { c.ds with outbox := c.ds.outbox ++ [.issue d] } }

/-- A drive is issued for a granted entry (08 R162). -/
def issueDrive (nv : Nv) (n v : Nat) (a : Action) (k : Nat) (r : ValveRecord) (c : Core) : Core :=
  let x := valveOf v c
  let token := nextToken x
  let c := setValve v { x with token := token, lastAction := some a, status := .moving } c
  let c := setSlot k
    { phase := .issued, valve := v, action := a, token := token, owner := n, surge := r.surge, stroke := r.stroke
      reissued := false, response := some (nv.settings.response * 1000), strokeTimer := none } c
  let c := handDrive ⟨k, r.station, r.channel, a, r.stroke, token⟩ c
  refreshKey n (setProgress n v a .inMotion c)

/-! ### The grant arbiter (08 R157-R161) -/

/-- The group of an incident that may receive grants: ISOLATING before RESTORING (08 R158). -/
def grantGroup (i : Incident) : Option Nat :=
  match i.state with
  | .isolating => some 0
  | .restoring => some 1
  | _ => none

/-- The key of 08 R158 within a class: FIXED, the raise order; ROTATING, the rotation key and then the raise order. -/
def grantKey (nv : Nv) (i : Incident) : Nat × Nat :=
  if nv.settings.grantOrder = 0 then (i.order, 0) else (i.key, i.order)

/-- Whether one incident comes before another in the arbiter's order (08 R158). -/
def grantBefore (nv : Nv) (a b : Incident) : Bool :=
  let ka := [(grantGroup a).getD 2, a.cls, (grantKey nv a).1, (grantKey nv a).2]
  let kb := [(grantGroup b).getD 2, b.cls, (grantKey nv b).1, (grantKey nv b).2]
  decide (ka < kb)

/-- The incidents that may receive grants, in the arbiter's order (08 R158). -/
def grantOrder (nv : Nv) (c : Core) : List Incident :=
  sortBy (grantBefore nv) ((live c).filter fun i => (grantGroup i).isSome)

/-- The surge group of a valve: 0 where its entry is POISONED (08 R159). -/
def surgeOf (nv : Nv) (v : Nat) (c : Core) : Nat :=
  match seen nv .valve v c with
  | .value r => r.valve.surge
  | .absent => 0
  | .poisoned => 0

/-- An incident's entries as the arbiter takes them: valve and progress, in list order, with their action (08 R158). -/
def grantEntries (i : Incident) : Action × List (Nat × Progress) :=
  match i.state with
  | .restoring => (.reopen, i.reopen.map fun e => (e.valve, e.progress))
  | _ => (.close, i.closure.map fun e => (e.valve, e.progress))

/-- The stage of a valve's entry, lower stages first: its rank for a closure entry, seven less its rank for a reopen entry; a
POISONED entry is of the first stage (08 R159). -/
def stageOf (nv : Nv) (a : Action) (v : Nat) (c : Core) : Nat :=
  match a with
  | .close => rankOr nv 0 v c
  | .reopen => 7 - rankOr nv 7 v c

/-- Whether an entry is eligible (08 R159). -/
def eligible (nv : Nv) (a : Action) (es : List (Nat × Progress)) (e : Nat × Progress) (c : Core) : Bool :=
  e.2 == .queued
    && es.all (fun f => f.2.ended || decide (stageOf nv a e.1 c ≤ stageOf nv a f.1 c))
    && (motionOf e.1 c).isNone
    && (surgeOf nv e.1 c == 0 || !c.ds.slots.any fun p => p.2.surge == surgeOf nv e.1 c)

/-- The first incident of a list that has an eligible entry, and that entry; the valve entries of the incidents looked at are
read (08 R157, R159; log 19), those of one incident in list order: the model's choice, for R159 gives no order (log 38). -/
def scan (nv : Nv) : List Incident → Core → Option (Nat × Nat × Action) × Core
  | [], c => (none, c)
  | i :: rest, c =>
    let (a, es) := grantEntries i
    let c := (es.filter fun e => !e.2.ended).foldl (fun c e => touchEntry nv .valve e.1 c) c
    match es.find? fun e => eligible nv a es e c with
    | some e => (some (i.number, e.1, a), c)
    | none => scan nv rest c

/-- The arbiter takes an eligible entry and applies the checks of 08 R160 (closure) or R161 (reopen). -/
def takeEntry (nv : Nv) (n v : Nat) (a : Action) (k : Nat) (c : Core) : Core :=
  let c := touchEntry nv .valve v c
  let x := valveOf v c
  if a = .reopen ∧ 0 < x.claims then endEntry nv n v a .skipped c
  else if held nv v c then faultEntry nv n v a .held c
  else
    match x.status, seen nv .valve v c with
    | .failed, _ => faultEntry nv n v a .unusable c
    | _, .value r => if x.position = a.target then endEntry nv n v a .done c else issueDrive nv n v a k r.valve c
    | _, _ => faultEntry nv n v a .unusable c

/-- The arbiter grants while a slot is IDLE and an entry is eligible, one entry after another: the notices of each follow those of
what came before it in the event (08 R157, R166, R168; 09 R185; log 15). -/
def grantLoop (nv : Nv) : Nat → Core → Core
  | 0, c => c
  | f + 1, c =>
    match idleSlot c with
    | none => c
    | some k =>
      match scan nv (grantOrder nv c) (beginPart c) with
      | (none, c) => c
      | (some (n, v, a), c) => grantLoop nv f (takeEntry nv n v a k c)

/-- How many entries of the live incidents are QUEUED: each entry the arbiter takes leaves QUEUED. -/
def queuedEntries (c : Core) : Nat :=
  ((live c).map fun i => (i.closure.filter fun e => e.progress == .queued).length
    + (i.reopen.filter fun e => e.progress == .queued).length).sum

/-- A run of the grant arbiter (08 R157). One round more than there are QUEUED entries for each incident, since an ending can
build reopen lists of at most the closure entries. -/
def arbiter (nv : Nv) (c : Core) : Core :=
  grantLoop nv (queuedEntries c + Config.incidents * Config.closureEntries + 1) c

/-! ### The end of a motion (08 R165-R168) -/

/-- A slot becomes IDLE and its valve's status is set. -/
def freeSlot (k : Nat) (m : Motion) (st : ValveMark) (c : Core) : Core :=
  setValve m.valve { valveOf m.valve c with status := st } (clearSlot k c)

/-- A motion completes (08 R166). -/
def completeMotion (nv : Nv) (k : Nat) (m : Motion) (c : Core) : Core :=
  arbiter nv (endEntry nv m.owner m.valve m.action .done (freeSlot k m .normal c))

/-- A valve's fault count rises, and stays at 255 (08 R151, R168). -/
def countFault (v : Nat) (c : Core) : Core :=
  let x := valveOf v c
  setValve v { x with faults := min 255 (x.faults + 1) } c

/-- A valve fault (08 R168). -/
def faultMotion (nv : Nv) (k : Nat) (m : Motion) (cause : FaultCause) (c : Core) : Core :=
  arbiter nv (faultEntry nv m.owner m.valve m.action cause (countFault m.valve (freeSlot k m .failed c)))

/-- A motion is withdrawn at a re-issue with its entry FAULTED (08 R165). -/
def withdrawFaulted (nv : Nv) (k : Nat) (m : Motion) (cause : FaultCause) (c : Core) : Core :=
  arbiter nv (faultEntry nv m.owner m.valve m.action cause (freeSlot k m .normal c))

/-- A reopen motion is withdrawn at a re-issue with its entry SKIPPED (08 R165). -/
def withdrawSkipped (nv : Nv) (k : Nat) (m : Motion) (c : Core) : Core :=
  arbiter nv (endEntry nv m.owner m.valve m.action .skipped (freeSlot k m .normal c))

/-! ### POSITION reports (08 R152-R155, R164) -/

/-- The stroke budget in seconds: the stroke time plus a quarter of it, rounded up (08 R164). -/
def strokeBudget (stroke : Nat) : Nat := stroke + (stroke + 3) / 4

/-- A matching MOVING report acknowledges an ISSUED slot (08 R164). -/
def acknowledge (k : Nat) (m : Motion) (c : Core) : Core :=
  setSlot k { m with phase := .moving, response := none, strokeTimer := some (strokeBudget m.stroke * 1000) } c

/-- A report for a valve with a motion in flight (08 R155). -/
def reportInFlight (nv : Nv) (k : Nat) (m : Motion) (r : Report) (c : Core) : Core :=
  if r.token ≠ m.token then c
  else
    match r.motion with
    | .moving => if m.phase = .issued then acknowledge k m c else c
    | .idle => if r.position = m.action.target then completeMotion nv k m c else faultMotion nv k m .stoppedShort c
    | .jammed => faultMotion nv k m .jammed c

/-- The test for a disturbed valve, on the position noted before the report (08 R153). -/
def testDisturbed (v : Nat) (noted : Position) (r : Report) (c : Core) : Core :=
  if 0 < (valveOf v c).claims ∧ (r.position = .opened ∨ r.position = .mid) ∧ noted = .closed then
    notify .valveDisturbed 0 v Config.none16 r.position.code c
  else c

/-- The test for a late report, on the position noted before the report (08 R154). -/
def testLate (v : Nat) (noted : Position) (r : Report) (c : Core) : Core :=
  match (valveOf v c).lastAction with
  | none => c
  | some a =>
    if (valveOf v c).status = .failed ∧ r.motion = .idle ∧ r.position = a.target ∧ noted ≠ a.target then
      notify .lateReport 0 v Config.none16 r.position.code c
    else c

/-- A report found for a valve updates its position and echoed token, and acts (08 R152). -/
def reportFor (nv : Nv) (v : Nat) (r : Report) (c : Core) : Core :=
  let noted := (valveOf v c).position
  let c := setValve v { valveOf v c with position := r.position, echo := r.token } c
  match motionOf v c with
  | some (k, m) => reportInFlight nv k m r c
  | none => testLate v noted r (testDisturbed v noted r c)

/-- A well-formed POSITION handed over by the Ring Port Unit (08 R152). -/
def positionReport (nv : Nv) (station : Nat) (r : Report) (c : Core) : Core :=
  let c := touchIndex nv .stationIndex station c
  if indexPoisoned .stationIndex station c || !c.ts.valid then c
  else
    match nv.active.tables.actuator station r.channel with
    | none => c
    | some v => reportFor nv v r c

/-! ### Timers (08 R165, R167) -/

/-- A drive is issued again with its token (08 R165). -/
def reissue (nv : Nv) (k : Nat) (m : Motion) (r : ValveRecord) (c : Core) : Core :=
  handDrive ⟨k, r.station, r.channel, m.action, r.stroke, m.token⟩
    (setSlot k { m with reissued := true, stroke := r.stroke, response := some (nv.settings.response * 1000) } c)

/-- The first expiry of a slot's response timer: a re-issue, or a withdrawal (08 R165). Where more than one of R165's cases holds, the
first in the order of its text decides, held, then POISONED, then claims: R165 does not say which does, and that order is the
model's choice (log 42). -/
def firstExpiry (nv : Nv) (k : Nat) (m : Motion) (c : Core) : Core :=
  let c := touchEntry nv .valve m.valve c
  if held nv m.valve c then withdrawFaulted nv k m .held c
  else
    match seen nv .valve m.valve c with
    | .value r =>
      if m.action = .reopen ∧ 0 < (valveOf m.valve c).claims then withdrawSkipped nv k m c else reissue nv k m r.valve c
    | .absent => withdrawFaulted nv k m .unusable c
    | .poisoned => withdrawFaulted nv k m .unusable c

/-- The expiry of a slot's response timer, its time run out (08 R165, R167; log 3). -/
def responseExpiry (nv : Nv) (k : Nat) (c : Core) : Core :=
  match slotOf k c with
  | none => c
  | some m =>
    if m.phase = .issued ∧ m.response = some 0 then
      if m.reissued then faultMotion nv k m .noResponse c else firstExpiry nv k m c
    else c

/-- The expiry of a slot's stroke timer, its time run out (08 R167; log 3). -/
def strokeExpiry (nv : Nv) (k : Nat) (c : Core) : Core :=
  match slotOf k c with
  | none => c
  | some m => if m.phase = .moving ∧ m.strokeTimer = some 0 then faultMotion nv k m .overrun c else c

end Sys2Proof.Machine
end

