-- ==== Sys2Proof/Machine/Tables.lean ====
section
/-! DEFINITION. Loading the shadow bank, compiling it, the swap, and the start-up check (02 R27, R59; 03). -/

namespace Sys2Proof.Machine

/-! ### The shadow bank (03 R39-R44) -/

/-- Whether a compile is running or a swap is pending (03 R47). -/
def compileBusy (c : Core) : Bool := c.ts.compile ≠ .idle

/-- Records are written into consecutive entries (03 R42). -/
def Tables.writeRun (t : Tables) (n : TableName) (i : Nat) : List Record → Tables
  | [] => t
  | r :: rs => Tables.writeRun (t.write n i r) n (i + 1) rs

/-- How many of `count` records the window has room for (03 R42, R43). -/
def LoadWindow.room (w : LoadWindow) (count : Nat) : Nat := min count (w.last + 1 - w.pointer)

/-- Records are taken into the open window; those past its last index are discarded (03 R42, R43). -/
def loadRecords (w : LoadWindow) (rs : List Record) (c : Core) : Core :=
  let n := w.room rs.length
  { c with ts := { c.ts with
      shadow := c.ts.shadow.writeRun w.table w.pointer (rs.take n)
      window := some { w with pointer := w.pointer + n } } }

/-- The load window closes (03 R40). -/
def closeLoad (c : Core) : Core := { c with ts := { c.ts with window := none } }

/-- The entries of a table of the active bank are read, entry by entry (03 R44); that they are read in ascending index is the
model's choice, for R44 and 09 R177 give no order (log 38). -/
def touchTable (nv : Nv) (c : Core) (t : TableName) : Core :=
  (presentIn nv t c).foldl (fun c i => touchEntry nv t i c) c

/-- The entries of an active table that are held POISONED. -/
def poisonedIn (nv : Nv) (t : TableName) (c : Core) : List Nat :=
  (presentIn nv t c).filter fun i => poisonedAt c ⟨t.area, i⟩

/-- The records COPY ACTIVE takes from an active table: those not POISONED (03 R44). -/
def copiedTable (nv : Nv) (t : TableName) (c : Core) : Sparse Record :=
  if c.ts.valid then (nv.active.tables.of t).filter fun p => !poisonedAt c ⟨t.area, p.1⟩ else []

/-- The four tables, in their order (03 R48). -/
def allTables : List TableName := [.segment, .valve, .sensor, .association]

/-- The active bank is copied into the shadow bank; with it, how many entries were copied and how many were POISONED
(03 R44). The order of the reads (Segment, Valve, Sensor, Association, each table ascending) and their falling at the copy's end are
the model's choices: R44 says only 'entry by entry', 09 R177 only 'at some point' (log 12, log 38). That what their POISONED finds
bear on is recomputed once, after the last of them, is a choice too (log 43). -/
def copyActive (nv : Nv) (c : Core) : (Nat × Nat) × Core :=
  let c := luUpdate nv (allTables.foldl (touchTable nv) c)
  let shadow : Tables :=
    ⟨copiedTable nv .segment c, copiedTable nv .valve c, copiedTable nv .sensor c, copiedTable nv .association c⟩
  ((((allTables.map fun t => (shadow.of t).length).sum), (allTables.map fun t => (poisonedIn nv t c).length).sum),
    { c with ts := { c.ts with shadow := shadow } })

/-! ### The checks of a compile (03 R48, 09 R190) -/

/-- Every examined field of a segment record is in its range (02 R19). -/
def SegmentRecord.inRange (g : SegmentRecord) : Bool :=
  decide (g.zone < Config.zones) && decide (g.cls ≤ 3) && decide (1 ≤ g.sMin)

/-- Every examined field of a valve record is in its range (02 R20). -/
def ValveRecord.inRange (v : ValveRecord) : Bool :=
  decide (v.sideA < Config.segments) && (decide (v.sideB < Config.segments) || v.sideB == Config.none16)
    && decide (1 ≤ v.station ∧ v.station ≤ Config.stations) && decide (v.channel ≤ 15)
    && decide (10 ≤ v.stroke ∧ v.stroke ≤ 1800) && decide (v.rank ≤ 7) && decide (v.surge ≤ 63) && decide (v.normal ≤ 1)

/-- Every examined field of a sensor record is in its range (02 R21). -/
def SensorRecord.inRange (x : SensorRecord) : Bool :=
  decide (1 ≤ x.station ∧ x.station ≤ Config.stations) && decide (x.channel ≤ 7) && decide (x.kind ≤ 1)
    && decide (x.home < Config.segments) && decide (1 ≤ x.shift ∧ x.shift ≤ 8)
    && decide (1 ≤ x.threshold ∧ x.threshold ≤ 4095) && decide (1 ≤ x.persistence ∧ x.persistence ≤ 32)
    && decide (5 ≤ x.timeout ∧ x.timeout ≤ 600)

/-- Every examined field of an association record is in its range (02 R22). -/
def AssociationRecord.inRange (a : AssociationRecord) : Bool :=
  decide (a.segment < Config.segments) && decide (1 ≤ a.weight ∧ a.weight ≤ 15)

/-- The lowest index of a table whose record meets a condition. -/
def Sparse.firstWith (m : Sparse Record) (bad : Record → Bool) : Option Nat :=
  (m.find? fun p => bad p.2).map Prod.fst

/-- The first entry whose key a lower entry has (03 R48, pass 4). -/
def firstTwin (key : Record → Nat × Nat) : List (Nat × Nat) → Sparse Record → Option Nat
  | _, [] => none
  | known, (i, r) :: rest => if known.contains (key r) then some i else firstTwin key (key r :: known) rest

/-- One association is above another (03 R48). -/
def AssociationRecord.above (a b : AssociationRecord) : Bool :=
  decide (b.sensor < a.sensor) || (a.sensor == b.sensor && decide (b.segment < a.segment))

/-- The first association not above the nearest of lower index (03 R48, pass 4). -/
def firstUnordered : Sparse Record → Option Nat
  | [] => none
  | [_] => none
  | p :: q :: rest =>
    if q.2.association.above p.2.association then firstUnordered (q :: rest) else some q.1

/-- The lowest segment that a count passes 16 for. -/
def firstCrowded (t : Tables) (count : Nat → Nat) : Option Nat := t.segments.keys.find? fun g => decide (16 < count g)

/-- What a compile reports: its result and the entry. -/
abbrev Finding := CompileResult × Option (TableName × Nat)

/-- A finding of one table, if there is one. -/
def finding (r : CompileResult) (t : TableName) (i : Option Nat) : Option Finding := i.map fun i => (r, some (t, i))

/-- The seven passes of a compile, in their order: the first condition found (03 R48). -/
def compileCheck (t : Tables) : Option Finding :=
  [ finding .badField .segment (t.segments.firstWith fun r => !r.segment.inRange),
    finding .badField .valve (t.valves.firstWith fun r => !r.valve.inRange),
    finding .badField .sensor (t.sensors.firstWith fun r => !r.sensor.inRange),
    finding .badField .association (t.associations.firstWith fun r => !r.association.inRange),
    finding .badEndpoint .valve (t.valves.firstWith fun r =>
      r.valve.sideA == r.valve.sideB || !t.segments.has r.valve.sideA
        || (r.valve.sideB != Config.none16 && !t.segments.has r.valve.sideB)),
    finding .badReference .sensor (t.sensors.firstWith fun r => !t.segments.has r.sensor.home),
    finding .badReference .association (t.associations.firstWith fun r =>
      !t.sensors.has r.association.sensor || !t.segments.has r.association.segment),
    finding .duplicate .valve (firstTwin (fun r => (r.valve.station, r.valve.channel)) [] t.valves),
    finding .duplicate .sensor (firstTwin (fun r => (r.sensor.station, r.sensor.channel)) [] t.sensors),
    finding .duplicate .association (firstUnordered t.associations),
    finding .boundaryOverflow .segment (firstCrowded t fun g => (t.boundary g).length),
    finding .assocOverflow .segment (firstCrowded t fun g => (t.associationList g).length),
    if t.segments.any fun p => p.2.segment.source then none else some (.noSource, none) ].findSome? id

/-! ### The end of a compile with an error (03 R50) -/

/-- COMPILE_DONE (03 R50). -/
def compileDone (r : CompileResult) (entry : Option (TableName × Nat)) (incident : Nat) (c : Core) : Core :=
  match entry with
  | none => notify .compileDone incident Config.none16 Config.none16 r.code c
  | some (.segment, i) => notify .compileDone incident Config.none16 i r.code c
  | some (.valve, i) => notify .compileDone incident i Config.none16 (r.code + 16 * TableName.valve.code) c
  | some (.sensor, i) => notify .compileDone incident i Config.none16 (r.code + 16 * TableName.sensor.code) c
  | some (.association, i) => notify .compileDone incident i Config.none16 (r.code + 16 * TableName.association.code) c

/-- The compile state becomes IDLE with a result (03 R50, R52, R53). -/
def compileEnds (r : CompileResult) (c : Core) : Core :=
  { c with ts := { c.ts with compile := .idle, last := some r } }

/-- A compile ends with an error found by its checks, or in its writing (03 R48-R50; log 29). -/
def compileErrorEnd (w : Option Unwritten) (c : Core) : Core :=
  if c.ts.compile = .compiling false then
    match compileCheck c.ts.shadow, w with
    | some (r, e), _ => compileDone r e 0 (compileEnds r c)
    | none, some (.entry t i) => compileDone .writeFailed (some (t, i)) 0 (compileEnds .writeFailed c)
    | none, some .indexRecord => compileDone .writeFailed none 0 (compileEnds .writeFailed c)
    | none, none => c
  else c

/-! ### The conflict check (03 R52) -/

/-- The sides of a valve from the boundary lists of segments, in the order they are given; a POISONED record gives none (03 R52).
R52 says only 'a segment of the incident's isolation set': that the index records are read in joining order, and no further than
the first sound list that names the valve, is the model's choice (log 38). That they are read by 02 R29 is deduced (log 34). -/
def sidesFromLists (nv : Nv) (v : Nat) : List Nat → Core → Option (Nat × Nat) × Core
  | [], c => (none, c)
  | g :: gs, c =>
    let c := touchIndex nv .segmentIndex g c
    if indexPoisoned .segmentIndex g c then sidesFromLists nv v gs c
    else
      match (boundaryList nv g c).find? fun p => p.1 == v with
      | some p => (some (g, p.2), c)
      | none => sidesFromLists nv v gs c

/-- The sides of a closure-list valve in the active bank (03 R52), its entry read by 02 R29 (log 34). -/
def oldSides (nv : Nv) (i : Incident) (v : Nat) (c : Core) : Option (Nat × Nat) × Core :=
  let c := touchEntry nv .valve v c
  match seen nv .valve v c with
  | .value r => (some (r.valve.sideA, r.valve.sideB), c)
  | .poisoned => sidesFromLists nv v i.isolation c
  | .absent => (none, c)

/-- Whether the new bank holds a valve joining two sides, in either order (03 R52). The new bank's record is compared as it is
stored, whatever its check code shows (log 37). -/
def joinsSides (new : Tables) (v : Nat) (sides : Option (Nat × Nat)) : Bool :=
  match new.valves.at? v, sides with
  | some r, some (a, b) =>
    (r.valve.sideA == a && r.valve.sideB == b) || (r.valve.sideA == b && r.valve.sideB == a)
  | _, _ => false

/-- The first closure-list valve of an incident that fails (03 R52). -/
def failingValve (nv : Nv) (new : Tables) (i : Incident) : List Nat → Core → Option Nat × Core
  | [], c => (none, c)
  | v :: vs, c =>
    let (sides, c) := oldSides nv i v c
    if joinsSides new v sides then failingValve nv new i vs c else (some v, c)

/-- The first failure of the conflict check: the incident and the entry (03 R52). An entry of the new bank counts as present
whatever its check code shows (02 R35; log 37). -/
def firstConflict (nv : Nv) (new : Tables) : List Incident → Core → Option (Nat × TableName × Nat) × Core
  | [], c => (none, c)
  | i :: is, c =>
    match failingValve nv new i (i.closure.map fun e => e.valve) c with
    | (some v, c) => (some (i.number, .valve, v), c)
    | (none, c) =>
      match i.isolation.find? fun g => !new.segments.has g with
      | some g => (some (i.number, .segment, g), c)
      | none => firstConflict nv new is c

/-! ### The swap (03 R51-R55, 04 R59) -/

/-- The generation after another (02 R26). -/
def succGeneration (g : Word16) : Word16 := if g = 65535 then 1 else g + 1

/-- The home segment a sensor's entry gives, or none (04 R59). -/
def homeOf (nv : Nv) (i : Nat) (c : Core) : Option Nat :=
  match seen nv .sensor i c with
  | .value r => some r.sensor.home
  | .absent => none
  | .poisoned => none

/-- A channel's recorded home segment is set from its sensor's entry (04 R59). -/
def recordHome (nv : Nv) (c : Core) (i : Nat) : Core :=
  setChannel i { channelOf i c with home := homeOf nv i c } c

/-- The inhibition of a channel is derived from the new bank (03 R54). -/
def rederive (nv : Nv) (c : Core) (i : Nat) : Core :=
  let c := recordHome nv (touchEntry nv .sensor i c) i
  let ch := channelOf i c
  match ch.home with
  | some g =>
    if covered g c then if ch.state = .inhibited then c else inhibitChannel nv c i
    else if ch.state = .inhibited then releaseChannel c i else c
  | none => if ch.state = .inhibited then releaseChannel c i else c

/-- The status of a valve on no live closure list is reset (03 R55). -/
def forgetValve (c : Core) (v : Nat) : Core :=
  if (live c).any fun i => i.closure.any fun e => e.valve == v then c
  else setValve v { valveOf v c with position := .unknown, status := .normal, faults := 0 } c

/-- The non-volatile state after the write of the selector word (02 R26, 03 R53). -/
def Nv.swapped (nv : Nv) : Nv := { nv with selector := nv.selector.other, generation := succGeneration nv.generation }

/-- What the blocks do once the new bank is active (03 R53-R55; 04 R59; 05 R81, R84; 07 R130; 08 R157). The channels are
re-derived in ascending sensor index, an order that no rule gives (log 38); that all 256 are, with their reads, before any score is
recomputed, and the scores before the arbiter's run, is the model's choice (log 43), and so is that the arbiter's grants come before
the admission (log 41). -/
def completeSwap (nv : Nv) (c : Core) : Core :=
  let c := compileEnds .ok { c with ts := { c.ts with valid := true, map := [] } }
  let c := beginPart (notify .swapDone 0 Config.none16 Config.none16 nv.selector.code (compileDone .ok none 0 c))
  let c := (List.range Config.sensors).foldl (rederive nv) c
  let c := c.ds.valves.keys.foldl forgetValve c
  let c := markDirty (presentIn nv .segment c) { c with lu := { c.lu with scores := [] } }
  admission nv (arbiter nv (luUpdate nv c))

/-- The swap is taken: the conflict check, and the swap abandoned or completed (03 R52, R53). The marks and TABLE_ERRORs of
the check's reads stay where the swap is abandoned: R52's 'condition map unchanged' is read as said of the abandoning, and the reads as
R29's (log 34). What the reads of a check that fails bear on is recomputed behind COMPILE_DONE (log 43). -/
def takeSwap (nv : Nv) (c : Core) : Nv × Core :=
  match firstConflict nv nv.inactive.tables (byOrder (live c)) c with
  | (some (n, t, i), c) => (nv, admission nv (luUpdate nv (compileDone .conflict (some (t, i)) n (compileEnds .conflict c))))
  | (none, c) => (nv.swapped, completeSwap nv.swapped c)

/-- A compile that has written the inactive bank proceeds to the swap (03 R51). -/
def proceed (nv : Nv) (c : Core) : Nv × Core :=
  match c.ip.engine with
  | .idle => takeSwap nv c
  | .running _ _ _ => (nv, { c with ts := { c.ts with compile := .swapPending } })

/-- A compile finishes writing the inactive bank (03 R49, R51). -/
def compileWriteDone (nv : Nv) (c : Core) : Nv × Core :=
  if c.ts.compile = .compiling false ∧ compileCheck c.ts.shadow = none then
    let nv := nv.setInactive ⟨c.ts.shadow, [], true⟩
    if c.ts.checking then (nv, { c with ts := { c.ts with compile := .compiling true } }) else proceed nv c
  else (nv, c)

/-! ### The start-up check (02 R27, 04 R59, 06 R96) -/

/-- The start-up check reads the active bank and sets the table state (02 R27; log 12, log 13); the recomputation follows the last
read (log 43). -/
def checkBank (nv : Nv) (readFirst : List Place) (c : Core) : Core :=
  let c := { c with ts := { c.ts with checking := false } }
  if nv.generation = 0 ∨ nv.active.valid = false then c
  else
    luUpdate nv ((readFirst ++ nv.active.damage.keys.map Place.ofKey).foldl (fun c p => touchPlace nv p c)
      { c with ts := { c.ts with valid := true } })

/-- The operating mode settles (06 R96). -/
def settleMode (nv : Nv) (c : Core) : Core :=
  if nv.settings.startMode = 1 ∧ c.ts.valid = true then { c with ic := { c.ic with mode := .watch } } else c

/-- The start-up check completes: table state, condition map, home segments and mode, and then a written compile's swap
(02 R27; 03 R51; 04 R59; 06 R96). -/
def checkComplete (nv : Nv) (readFirst : List Place) (c : Core) : Nv × Core :=
  let c := settleMode nv ((List.range Config.sensors).foldl (recordHome nv) (checkBank nv readFirst c))
  if c.ts.compile = .compiling true then proceed nv c else (nv, c)

end Sys2Proof.Machine
end

