-- ==== Sys2Proof/Machine/Plan.lean ====
section
/-! DEFINITION. Isolation planning: usable valves, expansion, the closure list, the outage, consent, and the completion of a
plan (07; 06 R105, R106, R111). -/

namespace Sys2Proof.Machine

/-! ### Usable valves (07 R134) -/

/-- Whether a valve is usable for the incident of a plan, once its entry has been read (07 R134). -/
def usable (nv : Nv) (w : Snapshot) (v : Nat) (c : Core) : Bool :=
  (match seen nv .valve v c with
   | .value _ => true
   | .absent => false
   | .poisoned => false)
    && !(w.persistent.has v || w.dynamic.has v)
    && (w.valves.atD .reset v).status != .failed
    && !w.passing.contains v
    && !(w.closure.any fun e => e.valve == v && e.progress.isFaulted)

/-! ### Expansion (07 R135-R137) -/

/-- The boundary of a set, ascending by valve: each valve with its far side (07 R135). -/
def boundaryOf (nv : Nv) (s : List Nat) (c : Core) : List (Nat × Nat) :=
  sortBy (fun a b => decide (a.1 < b.1)) ((s.flatMap fun g => boundaryList nv g c).filter fun p => !s.contains p.2)

/-- The segment index records of a set are read in its joining order, up to the first POISONED one; whether all are readable
(07 R133, R135; the order is the model's, log 38). -/
def readIndexes (nv : Nv) : List Nat → Core → Bool × Core
  | [], c => (true, c)
  | g :: gs, c =>
    let c := touchIndex nv .segmentIndex g c
    if indexPoisoned .segmentIndex g c then (false, c) else readIndexes nv gs c

/-- The examination of the boundary valves of a pass (07 R136): the set grown, or the failure. That a far side's segment entry is read
before its index record is the model's choice (log 38). -/
def examine (nv : Nv) (w : Snapshot) : List (Nat × Nat) → List Nat → Core → Except StallCause (List Nat) × Core
  | [], s, c => (.ok s, c)
  | (v, far) :: rest, s, c =>
    let c := touchEntry nv .valve v c
    if usable nv w v c then examine nv w rest s c
    else if s.contains far then examine nv w rest s c
    else if far = Config.none16 then (.error .unbounded, c)
    else
      let c := touchIndex nv .segmentIndex far (touchEntry nv .segment far c)
      if segmentPoisoned nv far c then (.error .tableError, c)
      else if w.limit < s.length + 1 then (.error .tooLarge, c)
      else examine nv w rest (s ++ [far]) c

/-- Passes until one appends no segment (07 R136). Every pass but the last appends, and the expansion limit bounds how many
can. -/
def expand (nv : Nv) (w : Snapshot) : Nat → List Nat → Core → Except StallCause (List Nat) × Core
  | 0, s, c => (.ok s, c)
  | f + 1, s, c =>
    match readIndexes nv s c with
    | (false, c) => (.error .tableError, c)
    | (true, c) =>
      match examine nv w (boundaryOf nv s c) s c with
      | (.error e, c) => (.error e, c)
      | (.ok s', c) => if s'.length = s.length then (.ok s, c) else expand nv w f s' c

/-- The valves a plan appends to the closure list, ascending by rank and then by valve (07 R139). -/
def newValves (nv : Nv) (w : Snapshot) (s : List Nat) (c : Core) : List Nat :=
  let vs := ((boundaryOf nv s c).map Prod.fst).filter fun v => !(w.closure.any fun e => e.valve == v)
  sortBy (fun a b =>
    decide (rankOr nv 0 a c < rankOr nv 0 b c) || (rankOr nv 0 a c == rankOr nv 0 b c && decide (a < b))) vs

/-! ### The outage (07 R144-R147) -/

/-- Whether a valve counts as closed for the outage, once its entry has been read where it is reported UNKNOWN (07 R144). -/
def countsClosed (nv : Nv) (w : Snapshot) (listed : List Nat) (v : Nat) (c : Core) : Bool :=
  let x := w.valves.atD .reset v
  listed.contains v || decide (0 < x.claims) || x.position == .closed
    || (x.position == .unknown &&
        (match seen nv .valve v c with
         | .value r => r.valve.normal == 1
         | .poisoned => true
         | .absent => false))

/-- The valve entries of those reported UNKNOWN on a boundary list are read, ascending by valve (07 R145; log 38). -/
def touchUnknown (nv : Nv) (w : Snapshot) (items : List (Nat × Nat)) (c : Core) : Core :=
  (items.filter fun p => (w.valves.atD .reset p.1).position = .unknown).foldl
    (fun c p => touchEntry nv .valve p.1 c) c

/-- The reach: segments to go on from, segments reached (07 R145). Each segment is gone on from once, breadth first; that order
of its reads is the model's (07 R133; log 38). -/
def reach (nv : Nv) (w : Snapshot) (s listed : List Nat) : Nat → List Nat → List Nat → Core → List Nat × Core
  | 0, _, reached, c => (reached, c)
  | _ + 1, [], reached, c => (reached, c)
  | f + 1, g :: todo, reached, c =>
    let c := touchIndex nv .segmentIndex g c
    if indexPoisoned .segmentIndex g c then reach nv w s listed f todo reached c
    else
      let items := boundaryList nv g c
      let c := touchUnknown nv w items c
      let next := distinct (((items.filter fun p => !countsClosed nv w listed p.1 c).map Prod.snd).filter fun h =>
        h ≠ Config.none16 && !s.contains h && !reached.contains h)
      reach nv w s listed f (todo ++ next) (reached ++ next) c

/-- The present segments whose entries make them SOURCE, outside a plan's set and the other live sets (07 R145). -/
def sourcesOf (nv : Nv) (w : Snapshot) (s : List Nat) (c : Core) : List Nat :=
  (presentIn nv .segment c).filter fun g =>
    (match seen nv .segment g c with
     | .value r => r.segment.source
     | .absent => false
     | .poisoned => false) && !s.contains g && !(w.otherSets.any fun t => t.contains g)

/-- The segments the reach starts from, and the reads that find them: the entries of the present segments, then the index records
of the sources, each ascending (07 R133, R145; log 38). A source whose index record is POISONED is poisoned, and no SOURCE for
the reach (02 R32). -/
def reachStart (nv : Nv) (w : Snapshot) (s : List Nat) (c : Core) : List Nat × Core :=
  let c := (presentIn nv .segment c).foldl (fun c g => touchEntry nv .segment g c) c
  let sources := sourcesOf nv w s c
  let c := sources.foldl (fun c g => touchIndex nv .segmentIndex g c) c
  (sources.filter fun g => !segmentPoisoned nv g c, c)

/-- The outage of a plan: the present segments neither reached nor in the set, ascending (07 R146). -/
def outageOf (nv : Nv) (w : Snapshot) (s listed : List Nat) (c : Core) : List Nat × Core :=
  let (start, c) := reachStart nv w s c
  let (reached, c) := reach nv w s listed (Config.segments + 1) start start c
  ((presentIn nv .segment c).filter fun g => !reached.contains g && !s.contains g, c)

/-- Whether a segment counts as PROTECTED (07 R147, 06 R105). -/
def countsProtected (nv : Nv) (g : Nat) (c : Core) : Bool :=
  segmentPoisoned nv g c ||
    (match seen nv .segment g c with
     | .value r => r.segment.protect
     | .absent => false
     | .poisoned => false)

/-! ### The plan (07 R132-R140) -/

/-- A plan that succeeded: isolation set, new closure valves, outage. -/
structure Plan where
  isolation : List Nat
  valves : List Nat
  outage : List Nat
  deriving DecidableEq, Repr

/-- What the engine computes on its snapshot, with its reads (07 R132-R140, R144-R146; log 12, log 28). -/
def computePlan (nv : Nv) (w : Snapshot) (c : Core) : Except StallCause Plan × Core :=
  match expand nv w (w.limit + 2) w.isolation c with
  | (.error e, c) => (.error e, c)
  | (.ok s, c) =>
    let vs := newValves nv w s c
    if Config.closureEntries < w.closure.length + vs.length then (.error .listFull, c)
    else
      let (outage, c) := outageOf nv w s (w.closure.map (fun e => e.valve) ++ vs) c
      (.ok ⟨s, vs, outage⟩, c)

/-! ### The completion (07 R138, R139, R141-R149) -/

/-- Whether a valve is interior to a set: both its sides lie in it (07 R135). -/
def interiorTo (nv : Nv) (s : List Nat) (v : Nat) (c : Core) : Bool :=
  s.any fun g => (boundaryList nv g c).any fun p => p.1 == v && s.contains p.2

/-- A closure entry as the new set leaves it (07 R138). -/
def amendEntry (nv : Nv) (s : List Nat) (c : Core) (e : ClosureEntry) : ClosureEntry :=
  if interiorTo nv s e.valve c then
    { e with role := .interior, progress := if e.progress = .queued then .skipped else e.progress }
  else e

/-- A new closure entry, by the valve's status at the completion (07 R139). -/
def newEntry (c : Core) (v : Nat) : ClosureEntry :=
  ⟨v, .boundary, if (valveOf v c).position = .closed ∧ (motionOf v c).isNone = true then .done else .queued⟩

/-- A valve takes one claim (07 R143). -/
def takeClaim (c : Core) (v : Nat) : Core :=
  setValve v { valveOf v c with claims := (valveOf v c).claims + 1 } c

/-- The consent causes that hold for a plan (07 R148). -/
def causesOf (nv : Nv) (p : Plan) (c : Core) : Causes :=
  { advise := c.ic.mode == .advise
    protect := (p.isolation ++ p.outage).any fun g => countsProtected nv g c
    outageLimit := decide (nv.settings.outageLimit < p.outage.length) }

/-- Whether a cause is new (06 R105). -/
def Causes.newOver (a old : Causes) : Bool :=
  (a.advise && !old.advise) || (a.protect && !old.protect) || (a.outageLimit && !old.outageLimit)

/-- Causes added to those an incident carries (06 R105). -/
def Causes.join (a b : Causes) : Causes :=
  ⟨a.advise || b.advise, a.protect || b.protect, a.outageLimit || b.outageLimit⟩

/-- The planner's part of a completion (07 R142). Several newly joined segments are taken in joining order in step 4, an order that
no rule gives (04 R74; log 38). The scores are brought up to date once all their channels are inhibited, before PLAN_READY (log 43). -/
def applyPlan (nv : Nv) (i : Incident) (p : Plan) (c : Core) : Core :=
  let joined := (p.isolation.drop i.isolation.length).filter fun g => !covered g c
  let entries := p.valves.map (newEntry c)
  let causes := causesOf nv p c
  let c := changeIncident i.number (fun x => { x with
    isolation := p.isolation
    closure := x.closure.map (amendEntry nv p.isolation c) ++ entries }) c
  let c := p.valves.foldl takeClaim c
  let c := luUpdate nv (joined.foldl (inhibitSegment nv) c)
  let c := changeIncident i.number (fun x => { x with
    outageCount := p.outage.length, outage := p.outage.take Config.outageRecorded
    generation := nv.generation, consent := x.consent.join causes }) c
  notify .planReady i.number Config.none16 i.burst (min 255 p.outage.length) c

/-- Whether a new entry waits for a reopen motion of another incident (07 R139). -/
def waitsForReopen (p : Plan) (c : Core) : Bool :=
  p.valves.any fun v =>
    match motionOf v c with
    | some (_, m) => m.action == .reopen
    | none => false

/-- The Incident Controller's part of the completion of a plan that succeeded (06 R106, R111; 07 R139). -/
def planOutcome (nv : Nv) (i : Incident) (p : Plan) (needs : Bool) (c : Core) : Core :=
  let c := if waitsForReopen p c then joinQueue i.number c else c
  match i.state with
  | .planning =>
    if needs then changeState i.number .awaitingConsent c else completionTest nv i.number (changeState i.number .isolating c)
  | .isolating =>
    if needs then changeState i.number .awaitingConsent c else completionTest nv i.number c
  | .suspending => if needs then changeState i.number .awaitingConsent c else c
  | .suspended => if needs then changeState i.number .awaitingConsent c else c
  | _ => c

/-- An incident becomes STALLED (06 R106, R111). -/
def stallIncident (i : Incident) (cause : StallCause) (c : Core) : Core :=
  changeState i.number .stalled
    (withdrawReplan i.order (changeIncident i.number (fun x => { x with stall := some cause, owed := false }) c))

/-- What stands of a plan, by its incident as the completion finds it (07 R141). A plan that succeeded makes its grants here, ahead
of the test for the next admission (07 R130), an order that no rule gives (log 41). -/
def planStands (nv : Nv) (order : Nat) (result : Except StallCause Plan) (c : Core) : Core :=
  match (live c).find? fun i => i.order == order with
  | none => c
  | some i =>
    if i.state = .planning ∧ i.releaseRequested = true then endIncident nv i.number c
    else if i.state = .restoring then c
    else
      match result with
      | .error cause => stallIncident i cause c
      | .ok p => arbiter nv (planOutcome nv i p ((causesOf nv p c).newOver i.consent) (applyPlan nv i p c))

/-- A plan completes; a pending swap follows, and then the test for an admission (07 R141). Of the two orders of the plan's grants
and the swap that 10, section 10.5, allows, the model takes the grants first, on the old bank (log 39). That the next admission
follows the grants, of the plan and of a completed swap, is the model's choice too (log 41), and so is that what the plan's reads
bear on is recomputed after the last of them, before the results stand (log 43). -/
def planCompletion (nv : Nv) (c : Core) : Nv × Core :=
  match c.ip.engine with
  | .idle => (nv, c)
  | .running order _ w =>
    let (result, c) := computePlan nv w c
    let c := luUpdate nv c
    let c := planStands nv order result { c with ip := { c.ip with engine := .idle } }
    if c.ts.compile = .swapPending then takeSwap nv (beginPart c) else (nv, admission nv c)

end Sys2Proof.Machine
end

