-- ==== Sys2Proof/Machine/Watch.lean ====
section
/-! DEFINITION. Readings, staleness, windows and confirmation: what a SAMPLE and the expiry of a watching timer do (01 R11, R12;
04 R60-R73; 05 R86; 06 R115). -/

namespace Sys2Proof.Machine

/-! ### The arithmetic of a reading (04 R62-R64) -/

/-- The deviation of a reading from a baseline: PRESSURE counts a fall, FLOW a rise, and 4095 holds it (04 R62). -/
def deviationOf (kind baseline x : Nat) : Nat :=
  min 4095 (if kind = 0 then baseline / 16 - x else x - baseline / 16)

/-- The baseline after a quiet reading: the step is the difference divided by 2 to the power `k`, toward zero (04 R64). -/
def baselineAfter (k baseline x : Nat) : Nat :=
  if baseline ≤ x * 16 then baseline + (x * 16 - baseline) / 2 ^ k else baseline - (baseline - x * 16) / 2 ^ k

/-! ### The states of a channel (04 R63, R65-R68) -/

/-- A seeding reading (04 R63). -/
def seeded (x : Nat) (ch : Channel) : Channel :=
  { ch with state := .quiet, seeded := true, baseline := x * 16, deviation := 0, persistence := 0, release := 0 }

/-- A channel becomes TRIPPED (04 R65, R66). -/
def tripped (ch : Channel) : Channel := { ch with state := .tripped, persistence := 0, release := 0 }

/-- The release run of a TRIPPED or ATTRIBUTED channel (04 R67, R68). -/
def releaseRun (r : SensorRecord) (ch : Channel) : Channel :=
  if ch.deviation < r.threshold / 2 then
    if r.persistence ≤ ch.release + 1 then
      { ch with state := .quiet, persistence := 0, release := 0, incident := none }
    else { ch with release := ch.release + 1 }
  else { ch with release := 0 }

/-- What the state of a channel makes of the deviation just stored (04 R65-R68). -/
def judged (r : SensorRecord) (ch : Channel) : Channel :=
  match ch.state with
  | .quiet =>
    if r.threshold ≤ ch.deviation then
      if r.persistence ≤ 1 then tripped ch else { ch with state := .suspect, persistence := 1 }
    else { ch with persistence := 0, release := 0 }
  | .suspect =>
    if r.threshold ≤ ch.deviation then
      if r.persistence ≤ ch.persistence + 1 then tripped ch else { ch with persistence := ch.persistence + 1 }
    else { ch with state := .quiet, persistence := 0 }
  | .tripped => releaseRun r ch
  | .attributed => releaseRun r ch
  | .inhibited => ch
  | .stale => ch

/-- A reading that ends its evaluation in QUIET updates the baseline (04 R64). -/
def tracked (r : SensorRecord) (x : Nat) (ch : Channel) : Channel :=
  if ch.state = .quiet then { ch with baseline := baselineAfter r.shift ch.baseline x } else ch

/-- Every evaluated reading is recorded and restarts the staleness timer (04 R60, R71). -/
def stamped (r : SensorRecord) (x time : Nat) (ch : Channel) : Channel :=
  { ch with lastReading := some x, lastTime := some time, timer := some (r.timeout * 1000) }

/-- A channel after an evaluated reading (04 R60-R68). -/
def evaluated (r : SensorRecord) (x time : Nat) (ch : Channel) : Channel :=
  stamped r x time
    (if ch.seeded = false ∨ ch.state = .stale then seeded x ch
     else tracked r x (judged r { ch with deviation := deviationOf r.kind ch.baseline x }))

/-! ### Taking a SAMPLE (04 R60, R61; 01 R12) -/

/-- The scores a change of a channel touches are brought up to date: it is or was TRIPPED, and its state or its deviation
changed (04 R77). -/
def scoreChange (nv : Nv) (i : Nat) (old new : Channel) (c : Core) : Core :=
  if (old.state = .tripped ∨ new.state = .tripped) ∧ (old.state ≠ new.state ∨ old.deviation ≠ new.deviation) then
    touchRun nv i c
  else c

/-- A reading is evaluated in a channel (04 R60). -/
def evaluateIn (nv : Nv) (i : Nat) (r : SensorRecord) (x time : Nat) (c : Core) : Core :=
  let old := channelOf i c
  let new := evaluated r x time old
  let c := scoreChange nv i old new (setChannel i new c)
  match old.incident with
  | some n => if old.state = .attributed ∧ new.state = .quiet then leaveList n i .released c else c
  | none => c

/-- A reading has been found to belong to a sensor (04 R60, steps 2 to 5; R61, R75). -/
def readingFor (nv : Nv) (time : Nat) (x : Reading) (i : Nat) (c : Core) : Core :=
  let c := touchEntry nv .sensor i c
  match seen nv .sensor i c with
  | .value r =>
    if indexPoisoned .sensorIndex i c ∨ x.suspect = true ∨ (channelOf i c).state = .inhibited then c
    else evaluateIn nv i r.sensor x.value time c
  | .absent => c
  | .poisoned => c

/-- A reading of a SAMPLE is taken, its notices behind those of the readings before it; the scores it touches are brought up to
date in its event (04 R60; log 23). -/
def takeReading (nv : Nv) (station time : Nat) (c : Core) (x : Reading) : Core :=
  let c := touchIndex nv .stationIndex station (beginPart c)
  if indexPoisoned .stationIndex station c || !c.ts.valid then c
  else
    match nv.active.tables.sensorAt station x.channel with
    | none => c
    | some i => luUpdate nv (readingFor nv time x i c)

/-- A well-formed SAMPLE is tested for a duplicate, and its readings are taken in turn (01 R11, R12; 04 R60). -/
def takeSample (nv : Nv) (station : Nat) (sequence : Byte) (time : Nat) (xs : List Reading) (c : Core) : Core :=
  if c.wu.lastSeq.at? station = some sequence then c
  else
    xs.foldl (takeReading nv station time)
      { c with wu := { c.wu with lastSeq := c.wu.lastSeq.put station sequence } }

/-! ### Expiries (04 R72, R73; 05 R86; 06 R115) -/

/-- The channel after its staleness timer has expired (04 R72, R73). -/
def staled (ch : Channel) : Channel :=
  { ch with state := .stale, persistence := 0, release := 0, timer := none, incident := none }

/-- Whether the staleness timer of a channel can expire: it runs in these four states, and its time has run out. A reading taken
first restarts it, and it does not expire (04 R71; log 3). -/
def canStale (ch : Channel) : Bool :=
  ch.timer == some 0 && (ch.state == .quiet || ch.state == .suspect || ch.state == .tripped || ch.state == .attributed)

/-- The expiry of a staleness timer (04 R72, R73); the scores are brought up to date before SENSOR_STALE is queued (log 43). -/
def stalenessExpiry (nv : Nv) (i : Nat) (c : Core) : Core :=
  let ch := channelOf i c
  if canStale ch then
    let c := luUpdate nv (scoreChange nv i ch (staled ch) (setChannel i (staled ch) c))
    let n := if ch.state = .attributed then ch.incident.getD 0 else 0
    let c := notify .sensorStale n i (ch.home.getD Config.none16) ch.state.code c
    if ch.state = .attributed then leaveList n i .stale c else c
  else c

/-- The expiry of a zone's window timer, its time run out (05 R85, R86; log 3). -/
def windowExpiry (nv : Nv) (z : Nat) (c : Core) : Core :=
  if windowOf z c = .opened 0 then chooseIn nv z c else c

/-- The expiry of an incident's confirmation timer, its time run out (06 R115; log 3). -/
def confirmationExpiry (n : Nat) (c : Core) : Core :=
  match incident? n c with
  | none => c
  | some i =>
    if i.state = .confirming ∧ i.timer = some 0 then
      changeState n .unconfirmed (changeIncident n (fun x => { x with timer := none }) c)
    else c

end Sys2Proof.Machine
end

