-- ==== Sys2Proof/Machine/Requests.lean ====
section
/-! DEFINITION. What each request does and answers, once the Management Handler has taken it (09 R175-R190 and the rules of the
blocks). -/

namespace Sys2Proof.Machine

/-! ### What a request comes to -/

/-- What the handler has once a request is taken: an answer, an operation that takes time, or the answer to SOFT RESET
(09 R174, R177, R183). -/
inductive Reply where
  | answer (result : Result) (data : List Byte)
  | work (job : Job)
  | softReset
  deriving DecidableEq, Repr

/-- An answer without data (09 R175). -/
def plain (r : Result) : Reply := .answer r []

/-- DONE with data (09 R176). -/
def doneWith (data : List Byte) : Reply := .answer .done data

/-- DONE with an incident's number and a state code (05 R93, 06 R103). -/
def doneIncident (n state : Nat) : Reply := doneWith (put8 n ++ put8 state)

/-- The state that RAISE's answer carries, once the event has had its effect (05 R93; log 32). -/
def raisedState (n : Nat) (c : Core) : Nat :=
  match incident? n c with
  | some i => i.state.code
  | none => 0

/-- The state that the answer of a taken incident request carries: that of its incident once the event has had its effect, 0 where
it has ENDed (06 R103; log 32). A live incident of its number that waits for a first plan, or has one running, with no release
requested is not the request's: no taken request leaves its own so, and the number has gone to one raised by a rerun. -/
def takenState (n : Nat) (c : Core) : Nat :=
  match incident? n c with
  | some i => if (i.state = .pending ∨ i.state = .planning) ∧ i.releaseRequested = false then 0 else i.state.code
  | none => 0

/-! ### STATUS and settings (09 R178-R182) -/

/-- The two bytes of an incident entry in the STATUS answer (09 R178). -/
def statusEntry (c : Core) (e : Nat) : List Byte :=
  match c.ic.table.at? e with
  | some i => put8 i.number ++ put8 i.state.code
  | none => put8 0 ++ put8 0

/-- The data of the STATUS answer (09 R178). -/
def statusData (nv : Nv) (r : Ring) (c : Core) : List Byte :=
  put8 c.ic.mode.code ++ putFlag c.ts.valid ++ put16 nv.generation.toNat ++ put8 nv.selector.code
    ++ put8 c.ts.compile.code ++ put8 (match c.ts.last with
      | some r => r.code
      | none => 255)
    ++ putFlag c.ts.lock ++ putFlag c.ic.alert ++ put8 c.ic.table.length ++ put8 c.ds.slots.length
    ++ put8 c.log.notices.length ++ put32 c.log.time.toNat
    ++ put16 r.badFrame.toNat ++ put16 r.overflow.toNat ++ put16 r.refusedSource.toNat ++ put16 c.log.lost.toNat
    ++ put16 c.ts.corrections.toNat ++ putFlag r.east.up ++ putFlag r.west.up
    ++ (List.range Config.incidents).flatMap (statusEntry c)

/-- The ten settings in setting-number order (09 R180). -/
def Settings.list (s : Settings) : List Nat :=
  [s.partAddress, s.primary, s.standby, s.locateWindow, s.confirmation, s.response, s.expansionLimit, s.outageLimit,
   s.grantOrder, s.startMode]

/-- A setting written (09 R180). -/
def Settings.set (s : Settings) (number v : Nat) : Settings :=
  match number with
  | 0 => { s with partAddress := v }
  | 1 => { s with primary := v }
  | 2 => { s with standby := v }
  | 3 => { s with locateWindow := v }
  | 4 => { s with confirmation := v }
  | 5 => { s with response := v }
  | 6 => { s with expansionLimit := v }
  | 7 => { s with outageLimit := v }
  | 8 => { s with grantOrder := v }
  | 9 => { s with startMode := v }
  | _ => s

/-- The range of a setting (09 R180). -/
def settingRange : Nat → Nat × Nat
  | 0 => (1, 250)
  | 1 => (1, 250)
  | 2 => (0, 250)
  | 3 => (1, 60)
  | 4 => (10, 3600)
  | 5 => (1, 30)
  | 6 => (1, 24)
  | 7 => (0, 512)
  | 8 => (0, 1)
  | _ => (0, 1)

/-- A value clamped to a setting's range (09 R182). -/
def clampSetting (number v : Nat) : Nat := max (settingRange number).1 (min (settingRange number).2 v)

/-- The data of the READ SETTINGS answer (09 R181). -/
def settingsData (s : Settings) : List Byte := s.list.flatMap put16

/-- Whether a clamped address meets one it must differ from (09 R182, check 4). -/
def addressConflict (s : Settings) (number v : Nat) : Bool :=
  match number with
  | 0 => v == s.primary || (s.standby != 0 && v == s.standby)
  | 1 => v == s.partAddress
  | 2 => v != 0 && v == s.partAddress
  | _ => false

/-- The data of the SET SETTING answer (09 R182). -/
def settingData (number v : Nat) : List Byte := put8 number ++ put16 v

/-- SET SETTING (09 R182; log 20). -/
def replySetSetting (s : Settings) (mode : Mode) (o : Origin) (args : List Byte) : Reply :=
  let number := u8 args 0
  let v := clampSetting number (u16 args 1)
  if 9 < number then plain .badRequest
  else if number = 0 ∧ mode ≠ .halt then plain .wrongMode
  else if addressConflict s number v then plain .badRequest
  else if s.list.getD number 0 = v then doneWith (settingData number v)
  else .work (.setting number v o)

/-! ### Mode and zone mask (06 R97, R99) -/

/-- SET MODE (06 R97). -/
def doSetMode (args : List Byte) (c : Core) : Reply × Core :=
  match modeOfCode (u8 args 0) with
  | none => (plain .badRequest, c)
  | some m =>
    if m = c.ic.mode then (plain .done, c)
    else if m ≠ .halt ∧ c.ts.valid = false then (plain (.refused .noTables), c)
    else
      (plain .done, notify .modeChanged 0 Config.none16 Config.none16 m.code { c with ic := { c.ic with mode := m } })

/-- The mask with the selected zones masked (action 1) or unmasked (action 0) (06 R99). -/
def maskAfter (action : Nat) (selection mask : Word32) : Word32 :=
  if action = 1 then mask ||| selection else mask &&& ~~~selection

/-- ZONE MASK (06 R99). -/
def doZoneMask (nv : Nv) (args : List Byte) (c : Core) : Reply × Core :=
  if 1 < u8 args 0 then (plain .badRequest, c)
  else
    let mask := maskAfter (u8 args 0) (BitVec.ofNat 32 (u32 args 1)) c.ic.mask
    (doneWith (put32 mask.toNat), admission nv { c with ic := { c.ic with mask := mask } })

/-! ### Loading and compiling (03 R41-R47) -/

/-- LOAD WINDOW (03 R41). -/
def doLoadWindow (args : List Byte) (c : Core) : Reply × Core :=
  if compileBusy c then (plain .busy, c)
  else
    match tableOfCode (u8 args 0) with
    | none => (plain .badRequest, c)
    | some t =>
      if u16 args 3 < u16 args 1 ∨ t.size ≤ u16 args 3 then (plain .badRequest, c)
      else
        (plain .done, { c with ts := { c.ts with window := some ⟨t, u16 args 1, u16 args 3, u16 args 1⟩ } })

/-- LOAD DATA (03 R42, 09 R188). -/
def doLoadData (args : List Byte) (c : Core) : Reply × Core :=
  let count := u8 args 0
  if compileBusy c then (plain .busy, c)
  else if count < 1 ∨ 20 < count ∨ args.length ≠ 1 + 12 * count then (plain .badRequest, c)
  else
    match c.ts.window with
    | none => (plain .noWindow, c)
    | some w =>
      (doneWith (put8 (w.room count) ++ put8 (count - w.room count) ++ put16 (w.pointer + w.room count)),
        loadRecords w (recordsOf (args.drop 1)) c)

/-- FILL (03 R43). -/
def doFill (args : List Byte) (c : Core) : Reply × Core :=
  let count := u16 args 12
  if compileBusy c then (plain .busy, c)
  else if count < 1 ∨ 2048 < count ∨ args.length ≠ 14 then (plain .badRequest, c)
  else
    match c.ts.window with
    | none => (plain .noWindow, c)
    | some w =>
      (doneWith (put16 (w.room count) ++ put16 (count - w.room count) ++ put16 (w.pointer + w.room count)),
        loadRecords w ((recordsOf (args.take 12)).flatMap fun r => List.replicate count r) c)

/-- COPY ACTIVE (03 R44). -/
def replyCopyActive (o : Origin) (c : Core) : Reply :=
  if compileBusy c then plain .busy else .work (.copyActive o)

/-- COMPILE (03 R46): the inactive bank is marked INVALID. -/
def doCompile (nv : Nv) (c : Core) : Reply × Nv × Core :=
  if compileBusy c then (plain .busy, nv, c)
  else
    (.answer .started [], nv.setInactive { nv.inactive with valid := false },
      { c with ts := { c.ts with compile := .compiling false } })

/-- An entry of a READ ENTRY answer: condition and record (09 R189). -/
def entryBytes : Seen → List Byte
  | .absent => put8 0 ++ Record.zero.bytes
  | .value r => put8 1 ++ r.bytes
  | .poisoned => put8 2 ++ Record.zero.bytes

/-- An entry of the inactive bank as READ ENTRY reports it (02 R35, 03 R45). -/
def seenInactive (b : Bank) (t : TableName) (i : Nat) : Seen :=
  if b.valid then
    match (b.tables.of t).at? i with
    | none => .absent
    | some r => if b.wrongAt ⟨t.area, i⟩ = some .two then .poisoned else .value r
  else .absent

/-- An entry of the shadow bank as READ ENTRY reports it (03 R45). -/
def seenShadow (t : Tables) (n : TableName) (i : Nat) : Seen :=
  match (t.of n).at? i with
  | none => .absent
  | some r => .value r

/-- READ ENTRY (03 R45). That what the POISONED finds of a read of the active bank bear on is recomputed once, after the last of the
requested entries has been read, is the model's choice (log 43). -/
def doReadEntry (nv : Nv) (args : List Byte) (c : Core) : Reply × Core :=
  let first := u16 args 2
  let count := u8 args 4
  match readBankOfCode (u8 args 0), tableOfCode (u8 args 1) with
  | some b, some t =>
    if count < 1 ∨ 16 < count ∨ t.size < first + count then (plain .badRequest, c)
    else
      let is := (List.range count).map fun k => first + k
      match b with
      | .shadow =>
        if compileBusy c then (plain .busy, c)
        else (doneWith (args ++ is.flatMap fun i => entryBytes (seenShadow c.ts.shadow t i)), c)
      | .inactive => (doneWith (args ++ is.flatMap fun i => entryBytes (seenInactive nv.inactive t i)), c)
      | .active =>
        let c := luUpdate nv (is.foldl (fun c i => touchEntry nv t i c) c)
        (doneWith (args ++ is.flatMap fun i => entryBytes (seen nv t i c)), c)
  | _, _ => (plain .badRequest, c)

/-! ### Raising (05 R92, R93) -/

/-- RAISE (05 R92, R93). The segment's entry is read before its index record (log 38), and what the two reads bear on is recomputed
before the checks and the score at raising are taken: the model's choices (log 43). -/
def doRaise (nv : Nv) (args : List Byte) (c : Core) : Reply × Core :=
  let g := u16 args 0
  if 511 < g then (plain .badRequest, c)
  else if c.ic.mode = .halt then (plain .wrongMode, c)
  else
    let c := luUpdate nv (touchIndex nv .segmentIndex g (touchEntry nv .segment g c))
    match seen nv .segment g c with
    | .value r =>
      if indexPoisoned .segmentIndex g c then (plain .notFound, c)
      else if covered g c then (plain (.refused .covered), c)
      else if freeEntries c = [] then (plain (.refused .full), c)
      else
        let n := raiseNumber c
        let c := luUpdate nv (raiseIncident nv g r.segment .manual (scoreOf g c) c)
        (doneIncident n (raisedState n c), c)
    | .absent => (plain .notFound, c)
    | .poisoned => (plain .notFound, c)

/-! ### Incident requests (06 R103, R107-R119, R126) -/

/-- An incident request that is taken: the event's effect, its scores brought up to date (log 43), and the answer (06 R103). -/
def takenFor (nv : Nv) (n : Nat) (c : Core) : Reply × Core :=
  let c := luUpdate nv c
  (doneIncident n (takenState n c), c)

/-- An incident becomes ISOLATING, with a replan queued where one is wanted; then the completion test and the arbiter
(06 R107, R113, R114, R117; log 18). -/
def enterIsolating (nv : Nv) (n : Nat) (replan : Bool) (c : Core) : Core :=
  let c := changeState n .isolating c
  let c := if replan then queueReplan nv n c else c
  arbiter nv (completionTest nv n c)

/-- CONSENT (06 R107). -/
def doConsent (nv : Nv) (args : List Byte) (c : Core) : Reply × Core :=
  let n := u8 args 0
  match incident? n c with
  | none => (plain .notFound, c)
  | some i =>
    if i.state = .awaitingConsent then
      takenFor nv n (enterIsolating nv n i.owed (changeIncident n (fun x => { x with owed := false }) c))
    else (plain (.refused .state), c)

/-- Whether a closure entry of an incident is QUEUED. -/
def Incident.hasQueued (i : Incident) : Bool := i.closure.any fun e => e.progress == .queued

/-- Whether a live incident of a number has a reopen list. -/
def reopening (n : Nat) (c : Core) : Bool :=
  match incident? n c with
  | some i => i.reopen ≠ []
  | none => false

/-- An incident becomes RESTORING at a request; the arbiter runs where an entry became SKIPPED, or a reopen list was built that is
not empty (06 R120, R121; 08 R157). -/
def restoreIncident (nv : Nv) (i : Incident) (c : Core) : Core :=
  let c := enterRestoring nv i.number c
  if i.hasQueued || reopening i.number c then arbiter nv c else c

/-- What REFUSE does to an incident AWAITING_CONSENT (06 R108). -/
def refuseIncident (nv : Nv) (i : Incident) (c : Core) : Core :=
  if i.key = 0 then endIncident nv i.number (giveUpClaims i.number c)
  else restoreIncident nv i c

/-- REFUSE (06 R108). -/
def doRefuse (nv : Nv) (args : List Byte) (c : Core) : Reply × Core :=
  let n := u8 args 0
  match incident? n c with
  | none => (plain .notFound, c)
  | some i =>
    if i.state = .awaitingConsent then takenFor nv n (refuseIncident nv i c) else (plain (.refused .state), c)

/-- SUSPEND (06 R112). -/
def doSuspend (nv : Nv) (args : List Byte) (c : Core) : Reply × Core :=
  let n := u8 args 0
  match incident? n c with
  | none => (plain .notFound, c)
  | some i =>
    if i.state = .isolating then takenFor nv n (changeState n (if inFlight n c then .suspending else .suspended) c)
    else (plain (.refused .state), c)

/-- RESUME (06 R113). -/
def doResume (nv : Nv) (args : List Byte) (c : Core) : Reply × Core :=
  let n := u8 args 0
  match incident? n c with
  | none => (plain .notFound, c)
  | some i =>
    if i.state = .suspending ∨ i.state = .suspended then takenFor nv n (enterIsolating nv n false c)
    else (plain (.refused .state), c)

/-- What RELEASE does to an incident, by its state (06 R118). -/
def releaseIncident (nv : Nv) (i : Incident) (c : Core) : Reply × Core :=
  match i.state with
  | .pending => takenFor nv i.number (endIncident nv i.number c)
  | .planning => takenFor nv i.number (changeIncident i.number (fun x => { x with releaseRequested := true }) c)
  | .awaitingConsent => takenFor nv i.number (refuseIncident nv i c)
  | .restoring => (plain (.refused .state), c)
  | _ => takenFor nv i.number (restoreIncident nv i c)

/-- The incident a RELEASE names: 0 names the ISOLATED one of lowest raise order (06 R119). -/
def releaseTarget (n : Nat) (c : Core) : Option Incident :=
  if n = 0 then (byOrder ((live c).filter fun i => i.state = .isolated)).head? else incident? n c

/-- RELEASE (06 R118, R119). -/
def doRelease (nv : Nv) (args : List Byte) (c : Core) : Reply × Core :=
  match releaseTarget (u8 args 0) c with
  | none => (plain .notFound, c)
  | some i => releaseIncident nv i c

/-- EXPAND (06 R117; log 21). -/
def doExpand (nv : Nv) (args : List Byte) (c : Core) : Reply × Core :=
  let n := u8 args 0
  let v := u16 args 1
  match incident? n c with
  | none => (plain .notFound, c)
  | some i =>
    if 1023 < v then (plain .badRequest, c)
    else if i.state ≠ .confirming ∧ i.state ≠ .isolated ∧ i.state ≠ .unconfirmed then (plain (.refused .state), c)
    else if (i.closure.any fun e => e.valve == v && e.role == .boundary) = false then (plain (.refused .state), c)
    else if Config.passingValves ≤ i.passing.length then (plain (.refused .full), c)
    else
      takenFor nv n (enterIsolating nv n true
        (changeIncident n (fun x => { x with passing := x.passing ++ [v], timer := none }) c))

/-- RETRY (06 R114). -/
def doRetry (nv : Nv) (args : List Byte) (c : Core) : Reply × Core :=
  let n := u8 args 0
  match incident? n c with
  | none => (plain .notFound, c)
  | some i =>
    if i.state = .stalled then
      takenFor nv n (enterIsolating nv n true (changeIncident n (fun x => { x with stall := none }) c))
    else (plain (.refused .state), c)

/-- The data of READ INCIDENT, part SUMMARY (06 R126). -/
def summaryData (i : Incident) : List Byte :=
  put8 i.number ++ put8 i.state.code ++ put16 i.burst ++ put8 i.zone ++ put8 i.cls ++ put8 i.cause.code ++ put16 i.score
    ++ put32 i.order ++ put32 i.key ++ put8 i.flags ++ put8 i.consent.code ++ put8 (stallCode i.stall)
    ++ put16 i.generation.toNat ++ putTimer i.timer ++ put8 i.isolation.length ++ put8 i.closure.length
    ++ put8 i.passing.length ++ put8 i.attributed.length ++ put16 i.outageCount ++ put8 i.reopen.length
    ++ i.isolation.flatMap put16 ++ i.passing.flatMap put16 ++ i.attributed.flatMap put8

/-- The items READ INCIDENT carries from a first index: at most 32 (09 R189). -/
def carried {α : Type} (first : Nat) (xs : List α) : List α := (xs.drop first).take 32

/-- A closure entry in the READ INCIDENT answer. -/
def closureBytes (e : ClosureEntry) : List Byte :=
  put16 e.valve ++ put8 e.role.code ++ put8 e.progress.code ++ put8 e.progress.faultCode

/-- A reopen entry in the READ INCIDENT answer. -/
def reopenBytes (e : ReopenEntry) : List Byte := put16 e.valve ++ put8 e.progress.code ++ put8 e.progress.faultCode

/-- The answer of READ INCIDENT for a live incident, part and first index (06 R126). -/
def incidentReply (i : Incident) (part first : Nat) : Reply :=
  match part with
  | 0 => doneWith (summaryData i)
  | 1 =>
    if 63 < first then plain .badRequest
    else
      doneWith (put8 i.number ++ put8 1 ++ put8 first ++ put8 (carried first i.closure).length
        ++ (carried first i.closure).flatMap closureBytes)
  | 2 => doneWith (put8 i.number ++ put8 2 ++ put16 i.outageCount ++ put8 i.outage.length ++ i.outage.flatMap put16)
  | 3 =>
    if 63 < first then plain .badRequest
    else
      doneWith (put8 i.number ++ put8 3 ++ put8 first ++ put8 (carried first i.reopen).length
        ++ (carried first i.reopen).flatMap reopenBytes)
  | _ => plain .badRequest

/-- READ INCIDENT (06 R126; log 21). -/
def replyReadIncident (args : List Byte) (c : Core) : Reply :=
  match incident? (u8 args 0) c with
  | none => plain .notFound
  | some i => incidentReply i (u8 args 1) (u8 args 2)

/-! ### Holds, valves and sensors (02 R36, R37; 04 R79; 08 R172, R173) -/

/-- A hold set or cleared in a set of held valves (02 R36). -/
def holdAfter (m : Sparse Unit) (v : Nat) (set : Bool) : Sparse Unit := if set then m.put v () else m.del v

/-- SET HOLD (02 R36). -/
def doSetHold (nv : Nv) (o : Origin) (args : List Byte) (c : Core) : Reply × Core :=
  let v := u16 args 0
  let set := u8 args 3 == 1
  if 1023 < v ∨ 1 < u8 args 2 ∨ 1 < u8 args 3 then (plain .badRequest, c)
  else if u8 args 2 = 1 then
    (plain .done, { c with ts := { c.ts with dynamic := holdAfter c.ts.dynamic v set } })
  else if c.ts.lock then (plain .locked, c)
  else if nv.persistent.has v = set then (plain .done, c)
  else (.work (.hold v set o), c)

/-- HOLD LOCK (02 R37). -/
def doHoldLock (c : Core) : Reply × Core := (plain .done, { c with ts := { c.ts with lock := true } })

/-- CLEAR FAULT (08 R172). -/
def doClearFault (args : List Byte) (c : Core) : Reply × Core :=
  let v := u16 args 0
  if 1023 < v then (plain .badRequest, c)
  else if (valveOf v c).status = .failed then
    (plain .done, setValve v { valveOf v c with status := .normal } c)
  else (plain (.refused .state), c)

/-- The slot fields of the READ VALVE answer (08 R173). -/
def slotBytes : Option (Nat × Motion) → List Byte
  | none => put8 255 ++ put8 0 ++ put8 0 ++ put8 0 ++ put8 0 ++ put8 0 ++ put32 Config.none32 ++ put32 Config.none32
  | some (k, m) =>
    put8 k ++ put8 m.phase.code ++ put8 m.action.code ++ put8 m.token ++ put8 m.owner ++ putFlag m.reissued
      ++ putTimer m.response ++ putTimer m.strokeTimer

/-- The data of the READ VALVE answer (08 R173). -/
def valveData (nv : Nv) (v : Nat) (c : Core) : List Byte :=
  let x := valveOf v c
  put16 v ++ put8 x.position.code ++ put8 x.status.code ++ put8 x.claims ++ put8 x.faults ++ put8 x.token
    ++ put8 (actionCode x.lastAction) ++ putFlag (nv.persistent.has v) ++ putFlag (c.ts.dynamic.has v)
    ++ put8 (markCode (markAt c ⟨.valve, v⟩)) ++ slotBytes (motionOf v c)

/-- READ VALVE (08 R173). -/
def replyReadValve (nv : Nv) (args : List Byte) (c : Core) : Reply :=
  if 1023 < u16 args 0 then plain .badRequest else doneWith (valveData nv (u16 args 0) c)

/-- The data of the READ SENSOR answer (04 R79). -/
def sensorData (i : Nat) (ch : Channel) : List Byte :=
  put16 i ++ put8 ch.state.code ++ putFlag ch.seeded ++ put32 ch.baseline ++ put16 (ch.baseline / 16)
    ++ put16 ch.deviation ++ put8 ch.persistence ++ put8 ch.release ++ putTimer ch.timer
    ++ put8 (ch.incident.getD 0) ++ put16 (ch.home.getD Config.none16)
    ++ putFlag ch.lastReading.isSome ++ put16 (ch.lastReading.getD 0) ++ put32 (ch.lastTime.getD 0)

/-- READ SENSOR (04 R79). -/
def replyReadSensor (args : List Byte) (c : Core) : Reply :=
  if 255 < u16 args 0 then plain .badRequest else doneWith (sensorData (u16 args 0) (channelOf (u16 args 0) c))

/-! ### Taking a request (09 R175) -/

/-- The argument length of a kind; none for LOAD DATA and FILL, which check their own (09 R175, Formats). -/
def argumentLength : Nat → Option Nat
  | 0x01 => some 0
  | 0x02 => some 0
  | 0x03 => some 3
  | 0x04 => some 1
  | 0x05 => some 5
  | 0x10 => some 5
  | 0x13 => some 0
  | 0x14 => some 0
  | 0x15 => some 5
  | 0x20 => some 2
  | 0x21 => some 1
  | 0x22 => some 1
  | 0x23 => some 1
  | 0x24 => some 1
  | 0x25 => some 1
  | 0x26 => some 3
  | 0x27 => some 1
  | 0x28 => some 3
  | 0x30 => some 4
  | 0x31 => some 0
  | 0x32 => some 2
  | 0x33 => some 2
  | 0x34 => some 2
  | 0x3F => some 0
  | _ => none

/-- What carrying a request out comes to: its reply, and the non-volatile state and the blocks after it. -/
structure Carried where
  reply : Reply
  nv : Nv
  core : Core
  deriving DecidableEq, Repr

/-- A reply that leaves the non-volatile state as it is. -/
def Carried.keep (nv : Nv) (x : Reply × Core) : Carried := ⟨x.1, nv, x.2⟩

/-- The request of a kind whose argument length is right, carried out (09, section 9.2). -/
def carryKind (nv : Nv) (r : Ring) (c : Core) (o : Origin) (kind : Nat) (args : List Byte) : Carried :=
  match kind with
  | 0x01 => ⟨doneWith (statusData nv r c), nv, c⟩
  | 0x02 => ⟨doneWith (settingsData nv.settings), nv, c⟩
  | 0x03 => ⟨replySetSetting nv.settings c.ic.mode o args, nv, c⟩
  | 0x04 => .keep nv (doSetMode args c)
  | 0x05 => .keep nv (doZoneMask nv args c)
  | 0x10 => .keep nv (doLoadWindow args c)
  | 0x11 => .keep nv (doLoadData args c)
  | 0x12 => .keep nv (doFill args c)
  | 0x13 => ⟨replyCopyActive o c, nv, c⟩
  | 0x14 => let x := doCompile nv c; ⟨x.1, x.2.1, x.2.2⟩
  | 0x15 => .keep nv (doReadEntry nv args c)
  | 0x20 => .keep nv (doRaise nv args c)
  | 0x21 => .keep nv (doConsent nv args c)
  | 0x22 => .keep nv (doRefuse nv args c)
  | 0x23 => .keep nv (doSuspend nv args c)
  | 0x24 => .keep nv (doResume nv args c)
  | 0x25 => .keep nv (doRelease nv args c)
  | 0x26 => .keep nv (doExpand nv args c)
  | 0x27 => .keep nv (doRetry nv args c)
  | 0x28 => ⟨replyReadIncident args c, nv, c⟩
  | 0x30 => .keep nv (doSetHold nv o args c)
  | 0x31 => .keep nv (doHoldLock c)
  | 0x32 => .keep nv (doClearFault args c)
  | 0x33 => ⟨replyReadValve nv args c, nv, c⟩
  | 0x34 => ⟨replyReadSensor args c, nv, c⟩
  | 0x3F => ⟨.softReset, nv, c⟩
  | _ => ⟨plain .badRequest, nv, c⟩

/-- A taken request is checked and carried out (09 R175): the kind, then the argument length, then the request's own rule. -/
def carry (nv : Nv) (r : Ring) (c : Core) (o : Origin) (body : List Byte) : Carried :=
  match body with
  | k :: _ :: args =>
    match argumentLength k.toNat with
    | some n => if args.length = n then carryKind nv r c o k.toNat args else ⟨plain .badRequest, nv, c⟩
    | none => carryKind nv r c o k.toNat args
  | _ => ⟨plain .badRequest, nv, c⟩

/-- Whether taking a request leaves the load window open: it is a LOAD DATA or a FILL (03 R40; log 33). -/
def keepsWindow (body : List Byte) : Bool :=
  match body with
  | k :: _ :: _ => k == 0x11 || k == 0x12
  | _ => false

end Sys2Proof.Machine
end

