-- ==== Sys2Proof/Machine/Outputs.lean ====
section
/-! DEFINITION. What leaves the part: drive copies, output arbitration, headers and the head notice (01 R5, R14-R18). -/

namespace Sys2Proof

/-- The opposite port. -/
def Port.other : Port → Port
  | .east => .west
  | .west => .east

end Sys2Proof

namespace Sys2Proof.Machine

/-! ### The ports -/

/-- A port of the Ring Port Unit. -/
def Ring.port (r : Ring) : Port → PortState
  | .east => r.east
  | .west => r.west

/-- The Ring Port Unit with a port replaced. -/
def Ring.setPort (r : Ring) (p : Port) (x : PortState) : Ring :=
  match p with
  | .east => { r with east := x }
  | .west => { r with west := x }

/-- Whether a port's link is UP. -/
def Ring.isUp (r : Ring) (p : Port) : Bool := (r.port p).up

/-- Whether a port has taken the head notice. -/
def Head.taken (h : Head) : Port → Bool
  | .east => h.east
  | .west => h.west

/-- A port has taken the head notice. -/
def Head.take (h : Head) (p : Port) : Head :=
  match p with
  | .east => { h with east := true }
  | .west => { h with west := true }

/-! ### Drive copies (01 R15) -/

/-- Whether a copy is of a slot's DRIVE and waits to be sent. -/
def DriveCopy.waitsFor (slot : Nat) (x : DriveCopy) : Bool := x.drive.slot == slot && !x.sending

/-- A DRIVE handed to a port's queue: it replaces a copy of the slot that waits, and else joins the end (01 R15; log 17). -/
def queueDrive (d : Drive) (xs : List DriveCopy) : List DriveCopy :=
  if xs.any (DriveCopy.waitsFor d.slot) then
    xs.map fun x => if x.waitsFor d.slot then ⟨d, none, false⟩ else x
  else xs ++ [⟨d, none, false⟩]

/-- What a port's drive-copy queue makes of an order of the Drive Sequencer (01 R15). -/
def portOrder (o : DriveOrder) (x : PortState) : PortState :=
  match o with
  | .issue d => if x.up then { x with drives := queueDrive d x.drives } else x
  | .discard k => { x with drives := x.drives.filter fun y => !y.waitsFor k }

/-- An order of the Drive Sequencer reaches both ports: a DRIVE leaves as two copies of one token, one out of each port
(01 R15; 08 R150). -/
def driveOrder (r : Ring) (o : DriveOrder) : Ring := { r with east := portOrder o r.east, west := portOrder o r.west }

/-- The orders of the event reach the drive-copy queues. -/
def deliver (s : State) : State :=
  { s with
    ring := s.core.ds.outbox.foldl driveOrder s.ring
    core := { s.core with ds := { s.core.ds with outbox := [] } } }

/-! ### Originated frames (01 R5) -/

/-- A header completed now: source the part address, sequence the own sequence, which increments (01 R5). -/
def newHeader (nv : Nv) (dest : Byte) (r : Ring) : Header × Ring :=
  (⟨dest, BitVec.ofNat 8 nv.settings.partAddress, r.ownSequence⟩, { r with ownSequence := r.ownSequence + 1 })

/-- The header of a copy: the one completed at the first taking, or one completed now (01 R5). -/
def headerFor (nv : Nv) (dest : Byte) (kept : Option Header) (r : Ring) : Header × Ring :=
  match kept with
  | some h => (h, r)
  | none => newHeader nv dest r

/-- A port's output begins to send a frame (01 R14). -/
def startSending (p : Port) (frame : List Byte) (what : Sent) (r : Ring) : Ring :=
  r.setPort p { r.port p with output := .sending frame what }

/-- The header of a frame is noted in the waiting copies of it that have none (01 R5). -/
def noteHeader (slot : Nat) (h : Header) (x : PortState) : PortState :=
  { x with drives := x.drives.map fun y =>
      if y.waitsFor slot && y.header.isNone then { y with header := some h } else y }

/-- The first copy of a queue is marked as in transmission. -/
def markDrive : List DriveCopy → List DriveCopy
  | [] => []
  | x :: xs => { x with sending := true } :: xs

/-- An output takes the oldest copy of its drive-copy queue (01 R5, R14). -/
def sendDrive (nv : Nv) (p : Port) (x : DriveCopy) (r : Ring) : Ring :=
  let (h, r) := headerFor nv (BitVec.ofNat 8 x.drive.station) x.header r
  let r := { r with east := noteHeader x.drive.slot h r.east, west := noteHeader x.drive.slot h r.west }
  let r := r.setPort p { r.port p with drives := markDrive (r.port p).drives }
  startSending p (mkFrame h 0x22 x.drive.body) .drive r

/-! ### Forwarded frames and answers (01 R10, R14, R16) -/

/-- The frame of a buffer of the opposite port that awaits an output and is not in transmission there. -/
def Buffered.awaits (p : Port) (b : Buffered) : Option (List Byte) :=
  match b.held with
  | .forward f sending => if b.port = p.other ∧ sending = false then some f else none
  | .request _ _ => none

/-- The first buffer awaiting an output is marked as in transmission there. -/
def markForward (p : Port) : List Buffered → List Buffered
  | [] => []
  | b :: bs =>
    match b.awaits p with
    | some f => { b with held := .forward f true } :: bs
    | none => b :: markForward p bs

/-- Whether an answer is bound to a port and waits. -/
def Answer.waitsAt (p : Port) (a : Answer) : Bool := a.origin.port == p && !a.sending

/-- The first answer bound to a port is marked as in transmission. -/
def markAnswer (p : Port) : List Answer → List Answer
  | [] => []
  | a :: as => if a.waitsAt p then { a with sending := true } :: as else a :: markAnswer p as

/-- An output takes an answer (01 R5, R14). -/
def sendAnswer (nv : Nv) (p : Port) (a : Answer) (r : Ring) : Ring :=
  let (h, r) := newHeader nv a.origin.station r
  startSending p (mkFrame h 0x32 a.body) .answer { r with answers := markAnswer p r.answers }

/-! ### The head notice (01 R17, 09 R186) -/

/-- An output takes the head notice (01 R5, R14, R17). -/
def sendNotice (nv : Nv) (p : Port) (n : Notice) (r : Ring) : Ring :=
  let (h, r) := headerFor nv (BitVec.ofNat 8 nv.settings.primary) r.head.header r
  startSending p (mkFrame h 0x33 n.body) .notice { r with head := { r.head.take p with header := some h } }

/-- The head leaves the notice queue once both ports have taken it (01 R17). -/
def popHead (s : State) : State :=
  if s.ring.head.east && s.ring.head.west then
    { s with
      core := { s.core with log := { s.core.log with notices := s.core.log.notices.drop 1 } }
      ring := { s.ring with head := ⟨false, false, none⟩ } }
  else s

/-- A port whose link is DOWN takes and discards the head notice while the other port's link is UP (01 R17). -/
def discardHead (p : Port) (s : State) : State :=
  if s.core.log.notices ≠ [] ∧ s.ring.isUp p = false ∧ s.ring.isUp p.other = true then
    popHead { s with ring := { s.ring with head := s.ring.head.take p } }
  else s

/-! ### Arbitration (01 R14) -/

/-- An IDLE output of an UP port takes the frame it prefers: a DRIVE copy, a forwarded frame, an answer bound to it, the head
notice (01 R14). -/
def arbitrate (p : Port) (s : State) : State :=
  let x := s.ring.port p
  if x.up = true ∧ x.output = .idle then
    match x.drives, s.ring.buffers.findSome? (Buffered.awaits p), s.ring.answers.find? (Answer.waitsAt p),
      s.core.log.notices with
    | d :: _, _, _, _ => { s with ring := sendDrive s.nv p d s.ring }
    | [], some f, _, _ =>
      { s with ring := startSending p f .forwarded { s.ring with buffers := markForward p s.ring.buffers } }
    | [], none, some a, _ => { s with ring := sendAnswer s.nv p a s.ring }
    | [], none, none, n :: _ =>
      if s.ring.head.taken p then s else popHead { s with ring := sendNotice s.nv p n s.ring }
    | [], none, none, [] => s
  else s

/-- One round of takings, East before West (log 16). -/
def takingRound (s : State) : State :=
  arbitrate .west (arbitrate .east (discardHead .west (discardHead .east s)))

/-- An event is over: the notices of the next join behind all that are queued (09 R185; log 15). -/
def endEvent (s : State) : State := { s with core := beginPart s.core }

/-- The outputs come to rest at the end of an event (01 R14, R17; log 16): a head can leave the queue at most twice, once taken
by an output in this event and once before it, so the fourth round finds nothing left to take. -/
def settle (s : State) : State := endEvent (takingRound (takingRound (takingRound (takingRound (deliver s)))))

end Sys2Proof.Machine
end

