-- ==== Sys2Proof/Machine/Handler.lean ====
section
/-! DEFINITION. The Management Handler: taking requests, queuing answers, the soft reset, and the ends of the operations that take
time (01 R3, R9, R16; 02 R36; 03 R44; 09 R174-R183). -/

namespace Sys2Proof.Machine

/-! ### The soft reset (01 R3, 09 R183) -/

/-- Whether a buffer holds a frame awaiting forwarding. -/
def Buffered.isForward (b : Buffered) : Bool :=
  match b.held with
  | .forward _ _ => true
  | .request _ _ => false

/-- The Ring Port Unit at a soft reset: links, outputs, BYPASS and the frames awaiting forwarding are kept (01 R3). -/
def Ring.softReset (r : Ring) : Ring :=
  { r with
    east := { r.east with drives := [] }, west := { r.west with drives := [] }
    buffers := r.buffers.filter Buffered.isForward, answers := [], ownSequence := 0, retired := none
    badFrame := 0, overflow := 0, refusedSource := 0, head := ⟨false, false, none⟩ }

/-- The six deciding blocks and the notice queue at a soft reset; the start-up check begins (02 R27, 09 R183; log 36). -/
def Core.softReset (picks : Nat) : Core :=
  { Core.reset picks with
    ts := { TableStore.reset with checking := true }
    log := ⟨[.deviceReset ResetKind.soft.code], 0, 0, 1⟩ }

/-- The soft reset takes place (01 R3, 09 R183). -/
def softReset (s : State) : State :=
  { s with core := .softReset s.core.ic.picks, handler := .ready, ring := s.ring.softReset }

/-! ### Answers (01 R16, 09 R174) -/

/-- The port an answer is bound to when it is queued (01 R16). -/
def bindPort (r : Ring) (p : Port) : Option Port :=
  if r.isUp p then some p else if r.isUp p.other then some p.other else none

/-- The answer joins the answer queue, or is discarded at once where no link is UP; the handler becomes READY, or
RESET_PENDING for SOFT RESET, whose reset takes place where its answer was discarded (01 R16; 09 R174, R183). -/
def joinAnswers (a : Answer) (s : State) : State :=
  match bindPort s.ring a.origin.port with
  | some p =>
    { s with
      ring := { s.ring with answers := s.ring.answers ++ [{ a with origin := { a.origin with port := p } }] }
      handler := if a.softReset then .resetPending else .ready }
  | none => if a.softReset then softReset s else { s with handler := .ready }

/-- The formed answer is handed on: it joins the queue, or waits in hand while the queue holds 4 (09 R174). -/
def handAnswer (a : Answer) (s : State) : State :=
  if s.ring.answers.length < Config.answerPlaces then joinAnswers a s else { s with handler := .waiting a }

/-- An ANSWER to a request. -/
def Origin.answer (o : Origin) (r : Result) (data : List Byte) : Answer := ⟨o, r, data, false, false⟩

/-! ### Taking requests (09 R174, R175) -/

/-- What an answer needs of a request: its kind and tag bytes, 0 where the body has none (09 R175). -/
def originOf (p : Port) (station : Byte) (body : List Byte) : Origin := ⟨p, station, byteAt body 0, byteAt body 1⟩

/-- What the handler does with the reply of a request it took (09 R174, R177, R183). -/
def handReply (o : Origin) (r : Reply) (s : State) : State :=
  match r with
  | .answer result data => handAnswer (o.answer result data) s
  | .work job => { s with handler := .working job }
  | .softReset => handAnswer { o.answer .done [] with softReset := true } s

/-- The handler takes a request (09 R174, R175; 03 R40). -/
def takeRequest (p : Port) (station : Byte) (body : List Byte) (s : State) : State :=
  let o := originOf p station body
  let x := carry s.nv s.ring (if keepsWindow body then s.core else closeLoad s.core) o body
  handReply o x.reply { s with nv := x.nv, core := x.core }

/-- The oldest held request, and the buffers without it (09 R174). -/
def takeHeld : List Buffered → Option ((Port × Byte × List Byte) × List Buffered)
  | [] => none
  | b :: bs =>
    match b.held with
    | .request station body => some ((b.port, station, body), bs)
    | .forward _ _ => (takeHeld bs).map fun x => (x.1, b :: x.2)

/-- While the handler is READY it takes the oldest held request (09 R174); a request for each buffer at most. Each taking's notices
follow those of the takings before it. -/
def takeRequests : Nat → State → State
  | 0, s => s
  | f + 1, s =>
    match s.handler, takeHeld s.ring.buffers with
    | .ready, some ((p, station, body), rest) =>
      takeRequests f (endEvent (takeRequest p station body { s with ring := { s.ring with buffers := rest } }))
    | _, _ => s

/-- The handler goes on to the held requests (09 R174). -/
def serve (s : State) : State := takeRequests s.ring.buffers.length s

/-- An answer has left the queue: the soft reset of a SOFT RESET takes place, and an answer in hand joins (01 R3, R16;
09 R174, R183). -/
def answerLeft (wasSoftReset : Bool) (s : State) : State :=
  if wasSoftReset then softReset s
  else
    match s.handler with
    | .waiting a => if s.ring.answers.length < Config.answerPlaces then serve (joinAnswers a s) else s
    | _ => s

/-! ### The ends of operations that take time (02 R36; 03 R44; 09 R177, R182) -/

/-- The effect of a persistent write that the handler is WORKING on (02 R36, 09 R180). -/
def writeLands (h : Handler) (nv : Nv) : Nv :=
  match h with
  | .working (.setting number v _) => { nv with settings := nv.settings.set number v }
  | .working (.hold v set _) => { nv with persistent := holdAfter nv.persistent v set }
  | _ => nv

/-- When the part address changes, the previous one becomes the retired address (01 R5, 09 R182). -/
def retire (nv : Nv) (number : Nat) (r : Ring) : Ring :=
  if number = 0 then { r with retired := some (BitVec.ofNat 8 nv.settings.partAddress) } else r

/-- The write of a setting has completed (09 R182). -/
def settingWritten (s : State) : State :=
  match s.handler with
  | .working (.setting number v o) =>
    serve (handAnswer (o.answer .done (settingData number v))
      { s with nv := writeLands s.handler s.nv, ring := retire s.nv number s.ring })
  | _ => s

/-- The write of a persistent hold has completed (02 R36). -/
def holdWritten (s : State) : State :=
  match s.handler with
  | .working (.hold _ _ o) => serve (handAnswer (o.answer .done []) { s with nv := writeLands s.handler s.nv })
  | _ => s

/-- The copy of the active bank is complete (03 R44; log 12). -/
def copyDone (s : State) : State :=
  match s.handler with
  | .working (.copyActive o) =>
    let x := copyActive s.nv s.core
    serve (handAnswer (o.answer .done (put16 x.1.1 ++ put16 x.1.2)) { s with core := x.2 })
  | _ => s

end Sys2Proof.Machine
end

