-- ==== Sys2Proof/Machine/Ports.lean ====
section
/-! DEFINITION. Links, arriving frames and ends of transmissions (01 R1, R6-R18). -/

namespace Sys2Proof.Machine

/-! ### An event of the blocks that decide -/

/-- An event of the six deciding blocks: its effect, the scores brought up to date (log 43), and what leaves the part
(05 R81, 01 R14). -/
def coreEvent (f : Nv → Core → Core) (s : State) : State := settle { s with core := luUpdate s.nv (f s.nv s.core) }

/-- An event of the six deciding blocks that can write the selector word, its scores brought up to date at its end (log 43). -/
def swapEvent (f : Nv → Core → Nv × Core) (s : State) : State :=
  let x := f s.nv s.core
  settle { s with nv := x.1, core := luUpdate x.1 x.2 }

/-! ### Receiving (01 R6-R13) -/

/-- How many of a port's buffers are occupied (01 R6). -/
def Ring.occupied (r : Ring) (p : Port) : Nat := (r.buffers.filter fun b => b.port == p).length

/-- A buffer is occupied. -/
def Ring.hold (r : Ring) (p : Port) (h : Held) : Ring := { r with buffers := r.buffers ++ [⟨p, h⟩] }

/-- A bad frame is counted (01 R6, R7). -/
def countBad (s : State) : State := { s with ring := { s.ring with badFrame := satInc s.ring.badFrame } }

/-- A lost frame is counted (01 R6, R7). -/
def countOverflow (s : State) : State := { s with ring := { s.ring with overflow := satInc s.ring.overflow } }

/-- A refused source is counted (01 R7, R9). -/
def countRefused (s : State) : State := { s with ring := { s.ring with refusedSource := satInc s.ring.refusedSource } }

/-- Whether a station is the part, by its address or its retired one (01 R8). -/
def ownSource (s : State) (station : Byte) : Bool :=
  station.toNat == s.nv.settings.partAddress || s.ring.retired == some station

/-- Whether a station is a manager (01 R9). -/
def isManager (s : Settings) (station : Byte) : Bool :=
  station.toNat == s.primary || (s.standby != 0 && station.toNat == s.standby)

/-- A REQUEST addressed to the part is held for the handler, which takes it at once where it is READY, or is refused for its
source (01 R9, 09 R174). -/
def consumeRequest (p : Port) (station : Byte) (body : List Byte) (s : State) : State :=
  if isManager s.nv.settings station then serve { s with ring := s.ring.hold p (.request station body) } else countRefused s

/-- A SAMPLE is snooped (01 R11, R12). -/
def snoopSample (f : List Byte) (s : State) : State :=
  match sampleOf (frameBody f) with
  | some (time, xs) =>
    { s with core := takeSample s.nv (frameSource f).toNat (frameSequence f) time xs s.core }
  | none => countBad s

/-- A POSITION is snooped, and the scores brought up to date after its effect (01 R13; log 43). -/
def snoopPosition (f : List Byte) (s : State) : State :=
  match positionOf (frameBody f) with
  | some r => { s with core := luUpdate s.nv (positionReport s.nv (frameSource f).toNat r s.core) }
  | none => countBad s

/-- What a forwarded frame is snooped for (01 R10, R11, R13). -/
def snoop (f : List Byte) (s : State) : State :=
  if frameKind f = 0x11 then snoopSample f s else if frameKind f = 0x21 then snoopPosition f s else s

/-- A forwarded frame is marked for the opposite port, or discarded where its link is DOWN (01 R10). -/
def forward (p : Port) (f : List Byte) (s : State) : State :=
  if s.ring.isUp p.other then { s with ring := s.ring.hold p (.forward f false) } else s

/-- A checked frame is stripped, consumed or forwarded (01 R8, R9, R10). -/
def takeFrame (p : Port) (f : List Byte) (s : State) : State :=
  if ownSource s (frameSource f) then s
  else if (frameDest f).toNat = s.nv.settings.partAddress then
    if frameKind f = 0x31 then consumeRequest p (frameSource f) (frameBody f) s else s
  else snoop f (forward p f s)

/-- A frame arrives whole at a port (01 R1, R6). -/
def frameArrives (p : Port) (f : List Byte) (s : State) : State :=
  if s.ring.isUp p = false then s
  else if Config.buffers ≤ s.ring.occupied p then countOverflow s
  else if frameOk f then takeFrame p f s
  else countBad s

/-- A checked REQUEST frame addressed to the part arrives at a port (01 R6, R8, R9; log 4). -/
def requestArrives (p : Port) (station : Byte) (body : List Byte) (s : State) : State :=
  if s.ring.isUp p = false then s
  else if Config.buffers ≤ s.ring.occupied p then countOverflow s
  else if ownSource s station then s
  else consumeRequest p station body s

/-- A row of the table that names a request of a kind: its frame arrives (log 4). -/
def requestRow (kind : Byte) (q : Request) (s : State) : State :=
  settle (requestArrives q.port q.station (kind :: q.tag :: q.args) s)

/-! ### Ends of transmissions (01 R14) -/

/-- The buffers without the one in transmission at a port's output (01 R14). -/
def dropForward (p : Port) : List Buffered → List Buffered
  | [] => []
  | b :: bs =>
    match b.held with
    | .forward _ true => if b.port = p.other then bs else b :: dropForward p bs
    | _ => b :: dropForward p bs

/-- Whether an answer is in transmission at a port. -/
def Answer.sentAt (p : Port) (a : Answer) : Bool := a.origin.port == p && a.sending

/-- Whether a SOFT RESET answer is among those that leave. -/
def anySoftReset (as : List Answer) : Bool := as.any fun a => a.softReset

/-- A port's output becomes IDLE. -/
def idleOutput (p : Port) (r : Ring) : Ring := r.setPort p { r.port p with output := .idle }

/-- The end of a transmission: its buffer, copy or answer is released (01 R14). -/
def releaseSent (p : Port) (what : Sent) (s : State) : State :=
  match what with
  | .forwarded => { s with ring := { s.ring with buffers := dropForward p s.ring.buffers } }
  | .drive =>
    { s with ring := s.ring.setPort p { s.ring.port p with drives := (s.ring.port p).drives.filter fun x => !x.sending } }
  | .answer =>
    let gone := s.ring.answers.filter (Answer.sentAt p)
    let s := { s with ring := { s.ring with answers := s.ring.answers.filter fun a => !a.sentAt p } }
    if gone.isEmpty then s else answerLeft (anySoftReset gone) s
  | .notice => s

/-- A transmission at a port ends (01 R14). -/
def transmissionEnds (p : Port) (s : State) : State :=
  match (s.ring.port p).output with
  | .idle => s
  | .sending _ what => releaseSent p what { s with ring := idleOutput p s.ring }

/-! ### Links (01 R1, R18) -/

/-- A link comes up, where BYPASS is released (01 R1). -/
def linkComesUp (p : Port) (s : State) : State :=
  if s.ring.bypass = true ∨ s.ring.isUp p = true then s
  else { s with ring := s.ring.setPort p { s.ring.port p with up := true } }

/-- Whether a buffer awaits a port's output, in transmission there or not. -/
def Buffered.isFor (p : Port) (b : Buffered) : Bool := b.isForward && b.port == p.other

/-- The answers as a port's link going down leaves them: the one in transmission is lost; the others bound to it are bound to
the other port, or discarded where its link is DOWN (01 R18). -/
def rebind (p : Port) (otherUp : Bool) (as : List Answer) : List Answer :=
  (as.filter fun a => !(a.origin.port == p && (a.sending || !otherUp))).map fun a =>
    if a.origin.port = p then { a with origin := { a.origin with port := p.other } } else a

/-- A link goes down (01 R18). -/
def linkGoesDown (p : Port) (s : State) : State :=
  if s.ring.isUp p then
    let up := s.ring.isUp p.other
    let gone := s.ring.answers.filter fun a => a.origin.port == p && (a.sending || !up)
    let r := s.ring.setPort p ⟨false, .idle, []⟩
    let s := { s with ring := { r with
      buffers := s.ring.buffers.filter fun b => !b.isFor p
      answers := rebind p up s.ring.answers } }
    if gone.isEmpty then s else answerLeft (anySoftReset gone) s
  else s

/-! ### The commands -/

/-- LINK_UP (01 R1). -/
def execLinkUp (p : Port) (s : State) : Host.Outcome State Fault Refusal := .next (settle (linkComesUp p s))

/-- LINK_DOWN (01 R18). -/
def execLinkDown (p : Port) (s : State) : Host.Outcome State Fault Refusal := .next (settle (linkGoesDown p s))

/-- FRAME_ARRIVAL (01 R6). -/
def execFrameArrival (p : Port) (f : List Byte) (s : State) : Host.Outcome State Fault Refusal :=
  .next (settle (frameArrives p f s))

/-- TRANSMIT_COMPLETION (01 R14). -/
def execTransmitCompletion (p : Port) (s : State) : Host.Outcome State Fault Refusal :=
  .next (settle (transmissionEnds p s))

end Sys2Proof.Machine
end

