-- ==== Sys2Proof/Machine/RequestRows.lean ====
section
/-! DEFINITION. The requests of the table, and the ends of the operations that requests begin (09, section 9.2; log 4). -/

namespace Sys2Proof.Machine

/-- REQUEST_UNKNOWN_KIND (09 R175; log 33). -/
def execRequestUnknownKind (p : Port) (station : Byte) (body : List Byte) (s : State) : Host.Outcome State Fault Refusal :=
  .next (settle (requestArrives p station body s))

/-- STATUS (09 R178). -/
def execStatus (q : Request) (s : State) : Host.Outcome State Fault Refusal := .next (requestRow 0x01 q s)

/-- READ SETTINGS (09 R181). -/
def execReadSettings (q : Request) (s : State) : Host.Outcome State Fault Refusal := .next (requestRow 0x02 q s)

/-- SET SETTING (09 R182). -/
def execSetSetting (q : Request) (s : State) : Host.Outcome State Fault Refusal := .next (requestRow 0x03 q s)

/-- SET MODE (06 R97). -/
def execSetMode (q : Request) (s : State) : Host.Outcome State Fault Refusal := .next (requestRow 0x04 q s)

/-- ZONE MASK (06 R99). -/
def execZoneMask (q : Request) (s : State) : Host.Outcome State Fault Refusal := .next (requestRow 0x05 q s)

/-- LOAD WINDOW (03 R41). -/
def execLoadWindow (q : Request) (s : State) : Host.Outcome State Fault Refusal := .next (requestRow 0x10 q s)

/-- LOAD DATA (03 R42). -/
def execLoadData (q : Request) (s : State) : Host.Outcome State Fault Refusal := .next (requestRow 0x11 q s)

/-- FILL (03 R43). -/
def execFill (q : Request) (s : State) : Host.Outcome State Fault Refusal := .next (requestRow 0x12 q s)

/-- COPY ACTIVE (03 R44). -/
def execCopyActive (q : Request) (s : State) : Host.Outcome State Fault Refusal := .next (requestRow 0x13 q s)

/-- COMPILE (03 R46). -/
def execCompile (q : Request) (s : State) : Host.Outcome State Fault Refusal := .next (requestRow 0x14 q s)

/-- READ ENTRY (03 R45). -/
def execReadEntry (q : Request) (s : State) : Host.Outcome State Fault Refusal := .next (requestRow 0x15 q s)

/-- RAISE (05 R92). -/
def execRaise (q : Request) (s : State) : Host.Outcome State Fault Refusal := .next (requestRow 0x20 q s)

/-- CONSENT (06 R107). -/
def execConsent (q : Request) (s : State) : Host.Outcome State Fault Refusal := .next (requestRow 0x21 q s)

/-- REFUSE (06 R108). -/
def execRefuse (q : Request) (s : State) : Host.Outcome State Fault Refusal := .next (requestRow 0x22 q s)

/-- SUSPEND (06 R112). -/
def execSuspend (q : Request) (s : State) : Host.Outcome State Fault Refusal := .next (requestRow 0x23 q s)

/-- RESUME (06 R113). -/
def execResume (q : Request) (s : State) : Host.Outcome State Fault Refusal := .next (requestRow 0x24 q s)

/-- RELEASE (06 R118). -/
def execRelease (q : Request) (s : State) : Host.Outcome State Fault Refusal := .next (requestRow 0x25 q s)

/-- EXPAND (06 R117). -/
def execExpand (q : Request) (s : State) : Host.Outcome State Fault Refusal := .next (requestRow 0x26 q s)

/-- RETRY (06 R114). -/
def execRetry (q : Request) (s : State) : Host.Outcome State Fault Refusal := .next (requestRow 0x27 q s)

/-- READ INCIDENT (06 R126). -/
def execReadIncident (q : Request) (s : State) : Host.Outcome State Fault Refusal := .next (requestRow 0x28 q s)

/-- SET HOLD (02 R36). -/
def execSetHold (q : Request) (s : State) : Host.Outcome State Fault Refusal := .next (requestRow 0x30 q s)

/-- HOLD LOCK (02 R37). -/
def execHoldLock (q : Request) (s : State) : Host.Outcome State Fault Refusal := .next (requestRow 0x31 q s)

/-- CLEAR FAULT (08 R172). -/
def execClearFault (q : Request) (s : State) : Host.Outcome State Fault Refusal := .next (requestRow 0x32 q s)

/-- READ VALVE (08 R173). -/
def execReadValve (q : Request) (s : State) : Host.Outcome State Fault Refusal := .next (requestRow 0x33 q s)

/-- READ SENSOR (04 R79). -/
def execReadSensor (q : Request) (s : State) : Host.Outcome State Fault Refusal := .next (requestRow 0x34 q s)

/-- SOFT RESET (09 R183). -/
def execSoftReset (q : Request) (s : State) : Host.Outcome State Fault Refusal := .next (requestRow 0x3F q s)

/-- SETTING_WRITE_DONE (09 R182). -/
def execSettingWriteDone (s : State) : Host.Outcome State Fault Refusal := .next (settle (settingWritten s))

/-- PERSISTENT_HOLD_WRITE_DONE (02 R36). -/
def execPersistentHoldWriteDone (s : State) : Host.Outcome State Fault Refusal := .next (settle (holdWritten s))

/-- COPY_ACTIVE_DONE (03 R44). -/
def execCopyActiveDone (s : State) : Host.Outcome State Fault Refusal := .next (settle (copyDone s))

end Sys2Proof.Machine
end

