-- ==== Sys2Proof/Machine/Resets.lean ====
section
/-! DEFINITION. Supplies, the RESET input, start-up, and the soft reset (01 R2, R3; 02 R26, R27; 03 R56, R57; 09 R177, R183). -/

namespace Sys2Proof.Machine

/-- Everything volatile at its reset value, BYPASS engaged (01 R2; log 8). -/
def coldState (s : State) : State :=
  { s with core := .reset s.core.ic.picks, handler := .ready, ring := .reset }

/-- Start-up begins: DEVICE_RESET is the first notice, the part time counts, and the start-up check runs (01 R2, 02 R27,
09 R184, R186). -/
def beginStartUp (s : State) : State :=
  { s with core := { s.core with
      ts := { s.core.ts with checking := true }
      log := ⟨[.deviceReset s.lines.kind.code], 0, 0, 1⟩ } }

/-- Start-up begins once the supplies are in range and RESET is high (01 R2). -/
def startIfReady (s : State) : State :=
  if s.lines.supplies = true ∧ s.lines.resetLow = false then beginStartUp s else s

/-! ### Writes cut off (02 R26, R36; 03 R57; 09 R177, R180; log 10) -/

/-- The non-volatile state that the event taking a swap now would leave; as it is where no event can take one (03 R51). -/
def swapNow (s : State) : Nv :=
  match s.core.ts.compile with
  | .idle => s.nv
  | .compiling true => (checkComplete s.nv [] s.core).1
  | .compiling false => (compileWriteDone s.nv s.core).1
  | .swapPending => (planCompletion s.nv s.core).1

/-- The non-volatile state where the reset falls within the write of the selector word: the new bank written and VALID, the
word as written or as it was (02 R26, 03 R57). -/
def cutSwap (written : Bool) (s : State) : Nv :=
  let nv := swapNow s
  if nv.generation = s.nv.generation then s.nv
  else if written then nv
  else { nv with selector := s.nv.selector, generation := s.nv.generation }

/-- The non-volatile state that a power loss or line reset leaves: the selector's write and the handler's each end either way
(02 R26, R36; 03 R57; 09 R180). -/
def cutWrites (cut : Cut) (s : State) : Nv :=
  let nv := if cut.inSwap then cutSwap cut.swapWritten s else s.nv
  if cut.landed then writeLands s.handler nv else nv

/-! ### The commands -/

/-- POWER_ON: the supplies come within range (01 R2; log 9). A write that the handler is WORKING on, where the part had its supplies
already, is left as it was: of the two outcomes that 09 R177 allows, the model's choice, the row having no operand (log 10). -/
def powerOn (s : State) : State :=
  startIfReady (coldState { s with lines := { s.lines with supplies := true, kind := .power } })

/-- POWER_LOSS: the supplies leave their range (01 R2, 03 R57; log 8). -/
def powerLoss (cut : Cut) (s : State) : State :=
  if s.lines.supplies then
    coldState { s with nv := cutWrites cut s, lines := { s.lines with supplies := false } }
  else s

/-- LINE_RESET: the RESET input is driven low (01 R2; log 9). -/
def lineReset (cut : Cut) (s : State) : State :=
  if s.lines.supplies then
    coldState { s with nv := cutWrites cut s, lines := { s.lines with resetLow := true, kind := .line } }
  else { s with lines := { s.lines with resetLow := true } }

/-- RESET_RELEASE: the RESET input goes high (01 R2). -/
def resetRelease (s : State) : State :=
  if s.lines.resetLow then startIfReady { s with lines := { s.lines with resetLow := false } } else s

/-- START_UP_CHECK_COMPLETE: the check completes, and start-up with it where it was under way (01 R2, 02 R27). -/
def startUpComplete (readFirst : List Place) (s : State) : State :=
  if s.core.ts.checking then
    swapEvent (fun nv c => checkComplete nv readFirst c) { s with ring := { s.ring with bypass := false } }
  else s

/-- SOFT_RESET_TAKES_PLACE: the answer to SOFT RESET has left by the output that sends it (01 R3, 09 R183). -/
def softResetTakesPlace (s : State) : State :=
  if s.handler = .resetPending then
    match s.ring.answers.find? fun a => a.softReset && a.sending with
    | some a => settle (transmissionEnds a.origin.port s)
    | none => s
  else s

/-- POWER_ON (01 R2). -/
def execPowerOn (s : State) : Host.Outcome State Fault Refusal := .next (powerOn s)

/-- POWER_LOSS (03 R57). -/
def execPowerLoss (cut : Cut) (s : State) : Host.Outcome State Fault Refusal := .next (powerLoss cut s)

/-- LINE_RESET (01 R2). -/
def execLineReset (cut : Cut) (s : State) : Host.Outcome State Fault Refusal := .next (lineReset cut s)

/-- RESET_RELEASE (01 R2). -/
def execResetRelease (s : State) : Host.Outcome State Fault Refusal := .next (resetRelease s)

/-- START_UP_CHECK_COMPLETE (02 R27). -/
def execStartUpCheckComplete (readFirst : List Place) (s : State) : Host.Outcome State Fault Refusal :=
  .next (startUpComplete readFirst s)

/-- SOFT_RESET_TAKES_PLACE (09 R183). -/
def execSoftResetTakesPlace (s : State) : Host.Outcome State Fault Refusal := .next (softResetTakesPlace s)

end Sys2Proof.Machine
end

