-- ==== Sys2Proof/Machine/Timers.lean ====
section
/-! DEFINITION. Expiries, the ends of plans and compiles, and the millisecond (03, 04, 05, 06, 07, 08; log 2, log 3). -/

namespace Sys2Proof.Machine

/-! ### A millisecond (09 R184; log 2, log 5) -/

/-- A timer loses a millisecond; at 0 it stays there until its expiry is taken (log 3). -/
def elapse (t : Option Nat) : Option Nat := t.map fun n => n - 1

/-- A channel's staleness timer runs on. -/
def Channel.elapse (ch : Channel) : Channel := { ch with timer := Machine.elapse ch.timer }

/-- A zone's window timer runs on. -/
def Window.elapse : Window → Window
  | .opened n => .opened (n - 1)
  | .closed => .closed
  | .deferred => .deferred

/-- An incident's confirmation timer runs on. -/
def Incident.elapse (i : Incident) : Incident := { i with timer := Machine.elapse i.timer }

/-- A slot's timers run on. -/
def Motion.elapse (m : Motion) : Motion :=
  { m with response := Machine.elapse m.response, strokeTimer := Machine.elapse m.strokeTimer }

/-- Every running timer loses a millisecond, and the part time gains one where start-up has begun (09 R184). -/
def Core.elapse (started : Bool) (c : Core) : Core :=
  { c with
    wu := { c.wu with channels := c.wu.channels.map fun p => (p.1, p.2.elapse) }
    lu := { c.lu with windows := c.lu.windows.map fun p => (p.1, p.2.elapse) }
    ic := { c.ic with table := c.ic.table.map fun p => (p.1, p.2.elapse) }
    ds := { c.ds with slots := c.ds.slots.map fun p => (p.1, p.2.elapse) }
    log := { c.log with time := if started then c.log.time + 1 else c.log.time } }

/-- One more bit of what a check code covers is wrong (02, section 2.4). -/
def worse : Option Wrong → Wrong
  | none => .one
  | some _ => .two

/-- A stored bit is lost at a place of a bank, where the bank holds something there (02, section 2.4). -/
def loseBit (b : Bank) (p : Place) : Bank :=
  if b.tables.holds p then { b with damage := b.damage.put p.key (worse (b.damage.at? p.key)) } else b

/-- What a millisecond does to the non-volatile state (02, section 2.4; log 5). -/
def wearOut (loss : Option (BankId × Place)) (nv : Nv) : Nv :=
  match loss with
  | some (id, p) => nv.setBank id (loseBit (nv.bank id) p)
  | none => nv

/-- One millisecond of the part's time: what a step does where no command waits (log 2). -/
def tick (s : State) : State :=
  { s with
    nv := wearOut (Config.bitLoss s.fresh) s.nv
    core := s.core.elapse (s.lines.supplies && !s.lines.resetLow)
    fresh := s.fresh + 1 }

/-! ### The commands -/

/-- STALENESS_EXPIRY (04 R72, R73). -/
def execStalenessExpiry (i : Nat) (s : State) : Host.Outcome State Fault Refusal :=
  .next (coreEvent (fun nv c => stalenessExpiry nv i c) s)

/-- WINDOW_EXPIRY (05 R86). -/
def execWindowExpiry (z : Nat) (s : State) : Host.Outcome State Fault Refusal :=
  .next (coreEvent (fun nv c => windowExpiry nv z c) s)

/-- CONFIRMATION_EXPIRY (06 R115). -/
def execConfirmationExpiry (n : Nat) (s : State) : Host.Outcome State Fault Refusal :=
  .next (coreEvent (fun _ c => confirmationExpiry n c) s)

/-- RESPONSE_TIMER_EXPIRY (08 R165, R167). -/
def execResponseTimerExpiry (k : Nat) (s : State) : Host.Outcome State Fault Refusal :=
  .next (coreEvent (fun nv c => responseExpiry nv k c) s)

/-- STROKE_TIMER_EXPIRY (08 R167). -/
def execStrokeTimerExpiry (k : Nat) (s : State) : Host.Outcome State Fault Refusal :=
  .next (coreEvent (fun nv c => strokeExpiry nv k c) s)

/-- PLAN_COMPLETION (07 R141). -/
def execPlanCompletion (s : State) : Host.Outcome State Fault Refusal := .next (swapEvent planCompletion s)

/-- COMPILE_ERROR_END (03 R50). -/
def execCompileErrorEnd (w : Option Unwritten) (s : State) : Host.Outcome State Fault Refusal :=
  .next (coreEvent (fun _ c => compileErrorEnd w c) s)

/-- COMPILE_WRITE_DONE (03 R49). -/
def execCompileWriteDone (s : State) : Host.Outcome State Fault Refusal := .next (swapEvent compileWriteDone s)

end Sys2Proof.Machine
end

