-- ==== Sys2Proof/Machine/Dispatch.lean ====
section
/-! DEFINITION. One arm for each command: its meaning. -/

namespace Sys2Proof.Machine

/-- The effect of a command on everything but the queue: one meaning for each row of spec/opcode_table.json. -/
def exec (i : Instr) (s : State) : Host.Outcome State Fault Refusal :=
  match i with
  | .powerOn => Sys2Proof.Machine.execPowerOn s
  | .lineReset cut => Sys2Proof.Machine.execLineReset cut s
  | .resetRelease => Sys2Proof.Machine.execResetRelease s
  | .startUpCheckComplete readFirst => Sys2Proof.Machine.execStartUpCheckComplete readFirst s
  | .linkUp port => Sys2Proof.Machine.execLinkUp port s
  | .linkDown port => Sys2Proof.Machine.execLinkDown port s
  | .frameArrival port frame => Sys2Proof.Machine.execFrameArrival port frame s
  | .transmitCompletion port => Sys2Proof.Machine.execTransmitCompletion port s
  | .softResetTakesPlace => Sys2Proof.Machine.execSoftResetTakesPlace s
  | .requestUnknownKind port station body => Sys2Proof.Machine.execRequestUnknownKind port station body s
  | .status q => Sys2Proof.Machine.execStatus q s
  | .readSettings q => Sys2Proof.Machine.execReadSettings q s
  | .setSetting q => Sys2Proof.Machine.execSetSetting q s
  | .settingWriteDone => Sys2Proof.Machine.execSettingWriteDone s
  | .setMode q => Sys2Proof.Machine.execSetMode q s
  | .zoneMask q => Sys2Proof.Machine.execZoneMask q s
  | .loadWindow q => Sys2Proof.Machine.execLoadWindow q s
  | .loadData q => Sys2Proof.Machine.execLoadData q s
  | .fill q => Sys2Proof.Machine.execFill q s
  | .copyActive q => Sys2Proof.Machine.execCopyActive q s
  | .copyActiveDone => Sys2Proof.Machine.execCopyActiveDone s
  | .compile q => Sys2Proof.Machine.execCompile q s
  | .compileErrorEnd unwritten => Sys2Proof.Machine.execCompileErrorEnd unwritten s
  | .compileWriteDone => Sys2Proof.Machine.execCompileWriteDone s
  | .readEntry q => Sys2Proof.Machine.execReadEntry q s
  | .raise q => Sys2Proof.Machine.execRaise q s
  | .consent q => Sys2Proof.Machine.execConsent q s
  | .refuse q => Sys2Proof.Machine.execRefuse q s
  | .suspend q => Sys2Proof.Machine.execSuspend q s
  | .resume q => Sys2Proof.Machine.execResume q s
  | .release q => Sys2Proof.Machine.execRelease q s
  | .expand q => Sys2Proof.Machine.execExpand q s
  | .retry q => Sys2Proof.Machine.execRetry q s
  | .readIncident q => Sys2Proof.Machine.execReadIncident q s
  | .setHold q => Sys2Proof.Machine.execSetHold q s
  | .persistentHoldWriteDone => Sys2Proof.Machine.execPersistentHoldWriteDone s
  | .holdLock q => Sys2Proof.Machine.execHoldLock q s
  | .clearFault q => Sys2Proof.Machine.execClearFault q s
  | .readValve q => Sys2Proof.Machine.execReadValve q s
  | .readSensor q => Sys2Proof.Machine.execReadSensor q s
  | .softReset q => Sys2Proof.Machine.execSoftReset q s
  | .stalenessExpiry sensor => Sys2Proof.Machine.execStalenessExpiry sensor s
  | .windowExpiry zone => Sys2Proof.Machine.execWindowExpiry zone s
  | .confirmationExpiry incident => Sys2Proof.Machine.execConfirmationExpiry incident s
  | .planCompletion => Sys2Proof.Machine.execPlanCompletion s
  | .responseTimerExpiry slot => Sys2Proof.Machine.execResponseTimerExpiry slot s
  | .strokeTimerExpiry slot => Sys2Proof.Machine.execStrokeTimerExpiry slot s
  | .powerLoss cut => Sys2Proof.Machine.execPowerLoss cut s

end Sys2Proof.Machine
end

