-- ==== Sys2Proof/Certificates/Slice0/Obligations.lean ====
section
/-! DEFINITION. The statements for the provers, and the words they are written in (namespace Claims). -/

namespace Sys2Proof.Claims

open Sys2Proof Sys2Proof.Machine

/-! ### The words of the statements -/

/-- A request is taken in the event of its arrival: its port is UP with a free buffer, it comes from a manager and not from the part
itself, and the handler is READY with no request held (01 R6, R8, R9; 09 R174). -/
abbrev Taken (port : Port) (station : Byte) (s : State) : Prop :=
  s.ring.isUp port = true ∧ s.ring.occupied port < 2 ∧ ownSource s station = false
    ∧ isManager s.nv.settings station = true ∧ s.handler = .ready ∧ takeHeld s.ring.buffers = none

/-- A request of a row of the table is taken in the event of its arrival. -/
abbrev TakenNow (q : Request) (s : State) : Prop := Taken q.port q.station s

/-- An operation of the handler ends where its answer joins the answer queue at once: its port is UP and the queue has a place
(01 R16, 09 R174). -/
abbrev EndsFreely (o : Origin) (s : State) : Prop := s.ring.isUp o.port = true ∧ s.ring.answers.length < 4

/-- The blocks once the load window has been closed (03 R40). -/
def closed (c : Core) : Core := { c with ts := { c.ts with window := none } }

/-- What an answer repeats of a request of a kind (09 R175). -/
def origin (q : Request) (kind : Byte) : Origin := ⟨q.port, q.station, kind, q.tag⟩

/-- The state with an answer joined to the answer queue, the handler READY (01 R16, 09 R174). -/
def joined (o : Origin) (r : Result) (d : List Byte) (s : State) : State :=
  { s with ring := { s.ring with answers := s.ring.answers ++ [⟨o, r, d, false, false⟩] }, handler := .ready }

/-- The state with a formed answer handed on: it joins the answer queue, or waits in hand while the queue holds 4, the handler WAITING
(09 R174). -/
def handed (o : Origin) (r : Result) (d : List Byte) (s : State) : State :=
  if s.ring.answers.length < 4 then joined o r d s else { s with handler := .waiting ⟨o, r, d, false, false⟩ }

/-- A request of a row ends in its event with a result and data, leaving the given non-volatile state and blocks: its answer joins the
queue, or waits in hand where that is full; nothing else changes but what then leaves by the outputs. -/
def Answers (i : Instr) (q : Request) (kind : Byte) (s : State) (r : Result) (d : List Byte) (nv : Nv) (c : Core) : Prop :=
  exec i s = .next (settle (handed (origin q kind) r d { s with nv := nv, core := c }))

/-- A request that closes the load window is answered without data and has no other effect (09 R176). -/
def Refuses (i : Instr) (q : Request) (kind : Byte) (s : State) (r : Result) : Prop :=
  Answers i q kind s r [] s.nv (closed s.core)

/-- A request begins an operation that takes time: the handler is WORKING on it (09 R177). -/
def Begins (i : Instr) (s : State) (j : Job) : Prop :=
  exec i s = .next (settle { s with core := closed s.core, handler := .working j })

/-- The end of an event of the deciding blocks: scores brought up to date, at the end by the model's choice (log 43), and outputs come to
rest (05 R81, 01 R14). -/
def ended (nv : Nv) (c : Core) (s : State) : State := settle { s with nv := nv, core := luUpdate nv c }

/-- An operation of the handler ends with DONE and data, leaving the given state but for its answer: the answer joins the queue
bound to its request's port where that is UP, else to the other, and is discarded where both are DOWN, the held requests being
taken next; with the queue full it waits in hand (01 R16, 09 R174). -/
def EndsWith (i : Instr) (o : Origin) (data : List Byte) (s u : State) : Prop :=
  (EndsFreely o u → exec i s = .next (settle (serve (joined o .done data u))))
    ∧ (u.ring.isUp o.port = false → u.ring.isUp o.port.other = true → u.ring.answers.length < 4 →
      exec i s = .next (settle (serve (joined { o with port := o.port.other } .done data u))))
    ∧ (u.ring.isUp o.port = false → u.ring.isUp o.port.other = false → u.ring.answers.length < 4 →
      exec i s = .next (settle (serve { u with handler := .ready })))
    ∧ (4 ≤ u.ring.answers.length → exec i s = .next (settle { u with handler := .waiting ⟨o, .done, data, false, false⟩ }))

/-- The ranges of the settings, in setting-number order (09 R180). -/
def settingBounds : List (Nat × Nat) :=
  [(1, 250), (1, 250), (0, 250), (1, 60), (10, 3600), (1, 30), (1, 24), (0, 512), (0, 1), (0, 1)]

/-- A value clamped to the range of a setting (09 R182, step 2). -/
def clamped (n x : Nat) : Nat :=
  let b := settingBounds.getD n (0, 0)
  if x < b.1 then b.1 else if b.2 < x then b.2 else x

/-- A clamped address meets one it must differ from (09 R182, step 4). -/
def AddressClash (x : Settings) (n v : Nat) : Prop :=
  (n = 0 ∧ (v = x.primary ∨ (x.standby ≠ 0 ∧ v = x.standby))) ∨ (n = 1 ∧ v = x.partAddress)
    ∨ (n = 2 ∧ v ≠ 0 ∧ v = x.partAddress)

/-- Everything volatile at its value for a power-on or line reset, before start-up begins (the tables at the heads of chapters
1 to 9). -/
def cold (picks : Nat) : Core :=
  { ts := { valid := false, checking := false, map := [], corrections := 0, dynamic := [], lock := false
            shadow := ⟨[], [], [], []⟩, window := none, compile := .idle, last := none }
    wu := ⟨[], []⟩
    lu := ⟨[], [], []⟩
    ic := { mode := .halt, mask := 0, table := [], nextNumber := 1, raises := 0, rotations := 0, alert := false
            picks := picks }
    ip := ⟨.idle, []⟩
    ds := ⟨[], [], []⟩
    log := ⟨[], 0, 0, 0⟩ }

/-- The blocks as a reset leaves them once start-up has begun: the start-up check runs, and DEVICE_RESET with its code is the one
notice (01 R2, 09 R186). -/
def starting (picks : Nat) (code : Nat) : Core :=
  { cold picks with
    ts := { (cold picks).ts with checking := true }
    log := ⟨[⟨.deviceReset, 0, 0, 65535, 65535, code⟩], 0, 0, 1⟩ }

/-- The Ring Port Unit at a power-on or line reset, BYPASS engaged (01 R2). -/
def bypassed : Ring :=
  { east := ⟨false, .idle, []⟩, west := ⟨false, .idle, []⟩, buffers := [], answers := [], ownSequence := 0, retired := none
    badFrame := 0, overflow := 0, refusedSource := 0, bypass := true, head := ⟨false, false, none⟩ }

/-- The Ring Port Unit as a soft reset leaves it: links, outputs, BYPASS and the frames awaiting forwarding are kept (01 R3). -/
def softened (r : Ring) : Ring :=
  { east := ⟨r.east.up, r.east.output, []⟩, west := ⟨r.west.up, r.west.output, []⟩
    buffers := r.buffers.filter Buffered.isForward, answers := [], ownSequence := 0, retired := none
    badFrame := 0, overflow := 0, refusedSource := 0, bypass := r.bypass, head := ⟨false, false, none⟩ }

/-- The state as a soft reset leaves it, what is non-volatile kept (01 R3, 09 R183). -/
def softResetState (s : State) : State :=
  { s with core := starting s.core.ic.picks 3, handler := .ready, ring := softened s.ring }

/-- Every read of the active bank finds what the condition map holds of its place already: it is sound, or POISONED, or shows the one
wrong bit it is CORRECTED for (02 R29). -/
def NothingToFind (nv : Nv) (c : Core) : Prop :=
  ∀ p : Place, nv.active.wrongAt p = none ∨ markAt c p = some .poisoned
    ∨ (nv.active.wrongAt p = some .one ∧ markAt c p = some .corrected)

/-! ### Invariants -/

/-- The queues keep within their capacities: notices, answers, receive buffers, one waiting DRIVE copy for each slot in each
port's queue, one replan request for each live incident; and a READY handler leaves no request held (01 R6, R15, R16; 07 R128,
R129; 09 R174, R185). Between events the seam stands behind every queued notice (the model's own, log 15). -/
def QueuesBounded (s : State) : Prop :=
  s.core.log.notices.length ≤ 32 ∧ s.ring.answers.length ≤ 4 ∧ (∀ p, s.ring.occupied p ≤ 2)
    ∧ (s.handler = .ready → takeHeld s.ring.buffers = none)
    ∧ (∀ p k, ((s.ring.port p).drives.filter fun x => x.drive.slot == k && !x.sending).length ≤ 1)
    ∧ s.core.ip.queue.Nodup ∧ (∀ o ∈ s.core.ip.queue, ∃ i ∈ live s.core, i.order = o)
    ∧ s.core.log.seam = s.core.log.notices.length

/-- Table state VALID means an active bank marked VALID and a generation other than 0, and a compile in progress or pending has
marked the inactive bank as its stage says (02 R26, R27; 03 R46, R49, R51). -/
def TablesConsistent (s : State) : Prop :=
  (s.core.ts.valid = true → s.nv.active.valid = true ∧ s.nv.generation ≠ 0)
    ∧ (s.core.ts.compile = .compiling false → s.nv.inactive.valid = false)
    ∧ (s.core.ts.compile = .compiling true ∨ s.core.ts.compile = .swapPending → s.nv.inactive.valid = true)

/-- Every setting is in its range, and the part address differs from both manager addresses (09 R180, R182). -/
def SettingsLegal (x : Settings) : Prop :=
  (∀ n, n ≤ 9 → (settingBounds.getD n (0, 0)).1 ≤ x.list.getD n 0 ∧ x.list.getD n 0 ≤ (settingBounds.getD n (0, 0)).2)
    ∧ x.partAddress ≠ x.primary ∧ (x.standby ≠ 0 → x.partAddress ≠ x.standby)

/-- The settings are legal, and those a running write would leave are too (09 R177, R182). -/
def SettingsInRange (s : State) : Prop :=
  SettingsLegal s.nv.settings
    ∧ ∀ n v o, s.handler = .working (.setting n v o) → SettingsLegal (s.nv.settings.set n v)

/-- While BYPASS is engaged both links are DOWN, and while the part is without supplies or held in reset everything volatile is
at its reset value (01 R1, R2). -/
def ResetHoldsEverything (s : State) : Prop :=
  (s.ring.bypass = true → s.ring.isUp .east = false ∧ s.ring.isUp .west = false)
    ∧ (s.lines.supplies = false ∨ s.lines.resetLow = true →
        s.core = cold s.core.ic.picks ∧ s.handler = .ready ∧ s.ring = bypassed)

/-- The four tables of a bank are in canonical form. -/
def TablesCanonical (t : Tables) : Prop :=
  t.segments.wf = true ∧ t.valves.wf = true ∧ t.sensors.wf = true ∧ t.associations.wf = true

/-- Every array of the state is in canonical form, those of the running plan's snapshot too, and the incident table uses its 16
entries alone (06 R100). -/
def ArraysCanonical (s : State) : Prop :=
  TablesCanonical s.nv.bankA.tables ∧ TablesCanonical s.nv.bankB.tables ∧ TablesCanonical s.core.ts.shadow
    ∧ s.nv.bankA.damage.wf = true ∧ s.nv.bankB.damage.wf = true
    ∧ (∀ o k w, s.core.ip.engine = .running o k w →
        w.persistent.wf = true ∧ w.dynamic.wf = true ∧ w.valves.wfD .reset = true)
    ∧ s.core.ts.map.wf = true ∧ s.core.ts.dynamic.wf = true ∧ s.core.wu.channels.wfD .reset = true
    ∧ s.core.wu.lastSeq.wf = true ∧ s.core.lu.scores.wfD 0 = true ∧ s.core.lu.windows.wfD .closed = true
    ∧ s.core.ic.table.wf = true ∧ (∀ e ∈ s.core.ic.table, e.1 < 16) ∧ s.core.ds.valves.wfD .reset = true
    ∧ s.core.ds.slots.wf = true ∧ s.nv.persistent.wf = true

/-- Baselines, deviations, scores and fault counts are in their ranges (04 R62, R64; 05 R80; 08 R151). -/
def ValuesInRange (s : State) : Prop :=
  (∀ i, (channelOf i s.core).baseline ≤ 1048560 ∧ (channelOf i s.core).deviation ≤ 4095)
    ∧ (∀ g, scoreOf g s.core ≤ 65535) ∧ ∀ v, (valveOf v s.core).faults ≤ 255

/-- A property that every step keeps. -/
def KeptByEveryStep (inv : State → Prop) : Prop :=
  ∀ s t, inv s → step s = .next t → inv t

end Sys2Proof.Claims

open Sys2Proof Sys2Proof.Machine Sys2Proof.Claims

/-! ### Steps and resets -/

/-- A step takes the command at the front of the queue and runs its meaning on the queue's rest. -/
def Obligations.StepRunsTheFrontCommand : Prop :=
  ∀ (c : Instr) (rest : List Instr) (s : State),
    step { s with pending := c :: rest } = exec c { s with pending := rest }

/-- MODEL'S CHOICE (log 2): a step on an empty queue is one millisecond: every running timer loses one, the part time gains one
where the part is running, and nothing else of the deciding blocks, the handler, the ring or the lines changes. -/
def Obligations.EmptyQueueIsOneMillisecond : Prop :=
  ∀ s : State, s.pending = [] → ∃ t, step s = .next t
    ∧ t.handler = s.handler ∧ t.ring = s.ring ∧ t.lines = s.lines ∧ t.pending = [] ∧ t.core.ts = s.core.ts
    ∧ t.core.wu.lastSeq = s.core.wu.lastSeq ∧ t.core.lu.scores = s.core.lu.scores ∧ t.core.ip = s.core.ip
    ∧ t.core.ds.valves = s.core.ds.valves ∧ t.core.log.notices = s.core.log.notices
    ∧ t.core.ic.mode = s.core.ic.mode ∧ t.core.ic.mask = s.core.ic.mask ∧ t.core.ic.alert = s.core.ic.alert
    ∧ t.core.ic.nextNumber = s.core.ic.nextNumber ∧ t.core.ic.raises = s.core.ic.raises
    ∧ t.core.ic.rotations = s.core.ic.rotations ∧ t.core.ic.picks = s.core.ic.picks
    ∧ t.core.lu.dirty = s.core.lu.dirty ∧ t.core.ds.outbox = s.core.ds.outbox
    ∧ t.core.log.lost = s.core.log.lost ∧ t.core.log.seam = s.core.log.seam
    ∧ t.core.ic.table.keys = s.core.ic.table.keys
    ∧ t.nv.settings = s.nv.settings ∧ t.nv.selector = s.nv.selector ∧ t.nv.generation = s.nv.generation
    ∧ t.nv.persistent = s.nv.persistent
    ∧ t.core.log.time = (if s.lines.supplies = true ∧ s.lines.resetLow = false then s.core.log.time + 1
        else s.core.log.time)
    ∧ (∀ i, channelOf i t.core = { channelOf i s.core with timer := (channelOf i s.core).timer.map (· - 1) })
    ∧ (∀ z n, windowOf z s.core = .opened n → windowOf z t.core = .opened (n - 1))
    ∧ (∀ z, windowOf z s.core = .closed → windowOf z t.core = .closed)
    ∧ (∀ z, windowOf z s.core = .deferred → windowOf z t.core = .deferred)
    ∧ live t.core = (live s.core).map (fun i => { i with timer := i.timer.map (· - 1) })
    ∧ (∀ k, slotOf k t.core = (slotOf k s.core).map fun m =>
        { m with response := m.response.map (· - 1), strokeTimer := m.strokeTimer.map (· - 1) })

/-- The machine after reset: the factory part, just powered on: generation 0, selector A, both banks INVALID, no persistent hold,
the settings at their defaults, everything volatile at its reset value, DEVICE_RESET(POWER) the one notice, BYPASS engaged, no
command waiting. That start-up is already under way, and that the factory banks hold nothing, is the model's choice (log 7). -/
def Obligations.ResetState : Prop :=
  State.reset.nv.generation = 0 ∧ State.reset.nv.selector = .a ∧ State.reset.nv.bankA = ⟨⟨[], [], [], []⟩, [], false⟩
    ∧ State.reset.nv.bankB = ⟨⟨[], [], [], []⟩, [], false⟩ ∧ State.reset.nv.persistent = []
    ∧ State.reset.nv.settings.list = [250, 1, 0, 10, 300, 3, 12, 512, 0, 0]
    ∧ State.reset.core = starting State.reset.core.ic.picks 1 ∧ State.reset.handler = .ready ∧ State.reset.ring = bypassed
    ∧ State.reset.lines = ⟨true, false, .power⟩ ∧ State.reset.pending = []

/-- The invariants stated below hold of the machine after reset. -/
def Obligations.InvariantsHoldAtReset : Prop :=
  QueuesBounded State.reset ∧ TablesConsistent State.reset ∧ SettingsInRange State.reset
    ∧ ResetHoldsEverything State.reset ∧ ArraysCanonical State.reset ∧ ValuesInRange State.reset

/-- Every command answers a next state in every state, and leaves the queue of waiting commands as it was. -/
def Obligations.EveryCommandAnswersANextState : Prop :=
  ∀ (i : Instr) (s : State), ∃ t, exec i s = .next t ∧ t.pending = s.pending

/-- POWER_ON and RESET_RELEASE: with supplies in range and RESET high start-up begins, with DEVICE_RESET(POWER) or (LINE) as the one
notice; with RESET low, or without supplies, it waits. A RESET_RELEASE with RESET already high changes nothing (log 1, log 9); a
POWER_ON leaves what is non-volatile as it was, a write still running included (log 10). -/
def Obligations.StartUpBegins : Prop :=
  (∀ s : State, s.lines.resetLow = false →
      exec .powerOn s = .next { s with core := starting s.core.ic.picks 1, handler := .ready, ring := bypassed
                                       lines := ⟨true, false, .power⟩ })
    ∧ (∀ s : State, s.lines.resetLow = true →
      exec .powerOn s = .next { s with core := cold s.core.ic.picks, handler := .ready, ring := bypassed
                                       lines := ⟨true, true, .power⟩ })
    ∧ (∀ s : State, ResetHoldsEverything s → s.lines.supplies = true → s.lines.resetLow = true → s.lines.kind = .line →
      exec .resetRelease s = .next { s with core := starting s.core.ic.picks 2, lines := ⟨true, false, .line⟩ })
    ∧ (∀ s : State, ResetHoldsEverything s → s.lines.supplies = true → s.lines.resetLow = true → s.lines.kind = .power →
      exec .resetRelease s = .next { s with core := starting s.core.ic.picks 1, lines := ⟨true, false, .power⟩ })
    ∧ (∀ s : State, s.lines.supplies = false → s.lines.resetLow = true →
      exec .resetRelease s = .next { s with lines := { s.lines with resetLow := false } })
    ∧ (∀ s : State, s.lines.resetLow = false → exec .resetRelease s = .next s)

/-- POWER_LOSS and LINE_RESET put everything volatile at its reset value with BYPASS engaged; what is non-volatile is kept, but
for a write cut off (log 10). That a POWER_LOSS does so and engages BYPASS at once, without supplies, is the model's choice (log
8). Without supplies they change no more than the line (log 1, log 9). -/
def Obligations.ResetsClearWhatIsVolatile : Prop :=
  (∀ (cut : Cut) (s : State), s.lines.supplies = true →
      exec (.powerLoss cut) s = .next { s with nv := cutWrites cut s, core := cold s.core.ic.picks, handler := .ready
                                               ring := bypassed, lines := { s.lines with supplies := false } })
    ∧ (∀ (cut : Cut) (s : State), s.lines.supplies = true →
      exec (.lineReset cut) s = .next { s with nv := cutWrites cut s, core := cold s.core.ic.picks, handler := .ready
                                               ring := bypassed
                                               lines := { s.lines with resetLow := true, kind := .line } })
    ∧ (∀ (cut : Cut) (s : State), s.lines.supplies = false → exec (.powerLoss cut) s = .next s)
    ∧ (∀ (cut : Cut) (s : State), s.lines.supplies = false →
      exec (.lineReset cut) s = .next { s with lines := { s.lines with resetLow := true } })

/-- A power loss or line reset leaves the selector word whole, as it was or as written, a setting or a persistent hold being written
as it was or as asked, and all the other settings and holds as they were (log 10: which of the two each write is, is an operand
of its own). -/
def Obligations.CutWritesAreWhole : Prop :=
  ∀ (cut : Cut) (s : State),
    (((cutWrites cut s).selector = s.nv.selector ∧ (cutWrites cut s).generation = s.nv.generation)
      ∨ ((cutWrites cut s).selector = s.nv.selector.other
          ∧ (cutWrites cut s).generation = succGeneration s.nv.generation))
    ∧ (cut.inSwap = false → (cutWrites cut s).bankA = s.nv.bankA ∧ (cutWrites cut s).bankB = s.nv.bankB
        ∧ (cutWrites cut s).selector = s.nv.selector ∧ (cutWrites cut s).generation = s.nv.generation)
    ∧ (cut.swapWritten = false → (cutWrites cut s).selector = s.nv.selector
        ∧ (cutWrites cut s).generation = s.nv.generation)
    ∧ (cut.landed = false → (cutWrites cut s).settings = s.nv.settings ∧ (cutWrites cut s).persistent = s.nv.persistent)
    ∧ (∀ n v o, s.handler = .working (.setting n v o) → cut.landed = true →
        (cutWrites cut s).settings = s.nv.settings.set n v ∧ (cutWrites cut s).persistent = s.nv.persistent)
    ∧ (∀ v o, s.handler = .working (.hold v true o) → cut.landed = true →
        (cutWrites cut s).persistent.has v = true ∧ (∀ w, w ≠ v →
          (cutWrites cut s).persistent.has w = s.nv.persistent.has w) ∧ (cutWrites cut s).settings = s.nv.settings)
    ∧ (∀ v o, s.handler = .working (.hold v false o) → cut.landed = true →
        (cutWrites cut s).persistent.has v = false ∧ (∀ w, w ≠ v →
          (cutWrites cut s).persistent.has w = s.nv.persistent.has w) ∧ (cutWrites cut s).settings = s.nv.settings)

/-- START_UP_CHECK_COMPLETE: the check and BYPASS end. Generation 0 or an INVALID active bank leaves table state NONE and nothing
read; otherwise it is VALID and each place whose check code shows two wrong bits is POISONED, one CORRECTED, and no other is
marked. The mode becomes WATCH exactly where the start mode is WATCH and the table state VALID. Each channel records its home
segment, none where its sensor is absent or POISONED or the table state NONE. The notices and the table-corrections counter are
those of its reads, and of the recomputation that follows the last of them (log 43): first the places that the operand names, then
every place with a wrong bit, ascending (log 13), all at the check's end, where marks and home segments are taken too (log 12). A
written compile that waited goes on to the swap: taken with the engine IDLE, else pending. It changes nothing where no check runs
(log 1). -/
def Obligations.StartUpCheckSettlesTablesAndMode : Prop :=
  (∀ (ps : List Place) (s : State), s.core.ts.checking = false → exec (.startUpCheckComplete ps) s = .next s)
    ∧ (∀ (ps : List Place) (s : State), s.core.ts.checking = true → ∃ t, exec (.startUpCheckComplete ps) s = .next t
        ∧ t.core.ts.checking = false ∧ t.ring.bypass = false ∧ t.handler = s.handler
        ∧ t.nv.settings = s.nv.settings ∧ t.nv.persistent = s.nv.persistent)
    ∧ ∀ (ps : List Place) (s u : State), s.core.ts.checking = true → s.core.ts.valid = false → s.core.ts.map = [] →
      s.core.ic.mode = .halt → u = { s with ring := { s.ring with bypass := false } } → ∃ c : Core,
        (s.core.ts.compile ≠ .compiling true → exec (.startUpCheckComplete ps) s = .next (ended s.nv c u))
        ∧ (s.core.ts.compile = .compiling true → s.core.ip.engine = .idle →
            exec (.startUpCheckComplete ps) s = .next (ended (takeSwap s.nv c).1 (takeSwap s.nv c).2 u))
        ∧ (s.core.ts.compile = .compiling true → s.core.ip.engine ≠ .idle → exec (.startUpCheckComplete ps) s =
            .next (ended s.nv { c with ts := { c.ts with compile := .swapPending } } u))
        ∧ c.ts.checking = false ∧ (c.ts.valid = true ↔ s.nv.generation ≠ 0 ∧ s.nv.active.valid = true)
        ∧ c.ic = { s.core.ic with
            mode := if s.nv.settings.startMode = 1 ∧ s.nv.generation ≠ 0 ∧ s.nv.active.valid = true then .watch else .halt }
        ∧ (s.nv.generation = 0 ∨ s.nv.active.valid = false → c.ts.map = [] ∧ c.ts.corrections = s.core.ts.corrections
            ∧ c.log = s.core.log ∧ ∀ i, i < 256 → (channelOf i c).home = none)
        ∧ (s.nv.generation ≠ 0 → s.nv.active.valid = true →
            (∀ p : Place, p.wellFormed = true →
              (s.nv.active.wrongAt p = some .two → markAt c p = some .poisoned)
              ∧ (s.nv.active.wrongAt p = some .one → markAt c p = some .corrected))
            ∧ (∀ p : Place, s.nv.active.damage.at? p.key = none → markAt c p = none)
            ∧ (∀ d, d = (ps ++ s.nv.active.damage.keys.map Place.ofKey).foldl (fun c p => touchPlace s.nv p c)
                  { s.core with ts := { s.core.ts with checking := false, valid := true } } →
                c.log = (luUpdate s.nv d).log ∧ c.ts.corrections = (luUpdate s.nv d).ts.corrections)
            ∧ ∀ i, i < 256 → (channelOf i c).home = match s.nv.active.tables.sensors.at? i with
              | none => none
              | some r => if s.nv.active.wrongAt ⟨.sensor, i⟩ = some .two then none else some r.sensor.home)
        ∧ (∀ p : Place, p.wellFormed = true → Place.ofKey p.key = p)
        ∧ (∀ i, channelOf i c = { channelOf i s.core with home := (channelOf i c).home })
        ∧ c.wu.lastSeq = s.core.wu.lastSeq ∧ c.ip = s.core.ip ∧ c.ds = s.core.ds
        ∧ c.ts.compile = s.core.ts.compile ∧ c.ts.dynamic = s.core.ts.dynamic ∧ c.ts.lock = s.core.ts.lock
        ∧ c.ts.shadow = s.core.ts.shadow ∧ c.ts.window = s.core.ts.window ∧ c.ts.last = s.core.ts.last

/-- SOFT RESET is answered DONE and the handler becomes RESET_PENDING, or WAITING with the answer in hand where the answer queue
is full, nothing being reset yet; with arguments it is BAD_REQUEST. SOFT_RESET_TAKES_PLACE: where that answer is in transmission,
its output becomes IDLE and every block takes its value for a soft reset: links, BYPASS, the other output and the frames awaiting
forwarding are kept, everything else of the ring is cleared, DEVICE_RESET(SOFT) is the one notice and the start-up check runs;
what is non-volatile is kept. Otherwise nothing changes (log 1). -/
def Obligations.SoftResetIsAnsweredThenTakesPlace : Prop :=
  (∀ (q : Request) (s : State), TakenNow q s →
      (q.args ≠ [] → Refuses (.softReset q) q 0x3F s .badRequest)
      ∧ (q.args = [] → s.ring.answers.length < 4 → exec (.softReset q) s = .next (settle { s with
          core := closed s.core, handler := .resetPending
          ring := { s.ring with answers := s.ring.answers ++ [⟨origin q 0x3F, .done, [], true, false⟩] } }))
      ∧ (q.args = [] → 4 ≤ s.ring.answers.length → exec (.softReset q) s = .next (settle { s with
          core := closed s.core, handler := .waiting ⟨origin q 0x3F, .done, [], true, false⟩ })))
    ∧ (∀ s : State, s.handler ≠ .resetPending → exec .softResetTakesPlace s = .next s)
    ∧ (∀ s : State, s.ring.answers.find? (fun a => a.softReset && a.sending) = none →
      exec .softResetTakesPlace s = .next s)
    ∧ (∀ (s : State) (a : Answer) (f : List Byte), s.handler = .resetPending →
      s.ring.answers.find? (fun a => a.softReset && a.sending) = some a → a.origin.port = .east →
      s.ring.east.output = .sending f .answer →
      exec .softResetTakesPlace s = .next (settle { s with
        core := starting s.core.ic.picks 3, handler := .ready
        ring := { east := ⟨s.ring.east.up, .idle, []⟩, west := ⟨s.ring.west.up, s.ring.west.output, []⟩
                  buffers := s.ring.buffers.filter Buffered.isForward, answers := [], ownSequence := 0, retired := none
                  badFrame := 0, overflow := 0, refusedSource := 0, bypass := s.ring.bypass
                  head := ⟨false, false, none⟩ } }))
    ∧ (∀ (s : State) (a : Answer) (f : List Byte), s.handler = .resetPending →
      s.ring.answers.find? (fun a => a.softReset && a.sending) = some a → a.origin.port = .west →
      s.ring.west.output = .sending f .answer →
      exec .softResetTakesPlace s = .next (settle { s with
        core := starting s.core.ic.picks 3, handler := .ready
        ring := { east := ⟨s.ring.east.up, s.ring.east.output, []⟩, west := ⟨s.ring.west.up, .idle, []⟩
                  buffers := s.ring.buffers.filter Buffered.isForward, answers := [], ownSequence := 0, retired := none
                  badFrame := 0, overflow := 0, refusedSource := 0, bypass := s.ring.bypass
                  head := ⟨false, false, none⟩ } }))

/-! ### The ring -/

/-- The ring as a link going down at a port leaves it: the buffers that awaited its output are freed, its drive copies and its
transmission are gone, and each answer bound to it is bound to the other port, or is discarded where it was in transmission or
the other link is DOWN (01 R18). -/
def downed (p : Port) (r : Ring) : Ring :=
  { (r.setPort p ⟨false, .idle, []⟩) with
    buffers := r.buffers.filter fun b => !(b.isForward && b.port == p.other)
    answers := r.answers.filterMap fun a =>
      if a.origin.port = p then
        if a.sending = true ∨ r.isUp p.other = false then none
        else some { a with origin := { a.origin with port := p.other } }
      else some a }

/-- An answer that a link going down at a port discards (01 R18). -/
def LostAt (p : Port) (r : Ring) (a : Answer) : Prop :=
  a ∈ r.answers ∧ a.origin.port = p ∧ (a.sending = true ∨ r.isUp p.other = false)

/-- LINK_UP sets a DOWN link UP where BYPASS is released and changes nothing of the part's own otherwise; LINK_DOWN at an UP link
frees the buffers that awaited its output, empties its drive-copy queue, loses its transmission, and rebinds its answers to the
other port, or discards them where that is DOWN. An answer so discarded lets an answer in hand join the queue, and the held
requests be taken; the answer to SOFT RESET so discarded lets the soft reset take place. The outputs then come to rest
(`settle`), whatever the state. LINK_UP at an UP link or under BYPASS and LINK_DOWN at a DOWN link have no effect (log 1). -/
def Obligations.LinksComeUpAndGoDown : Prop :=
  (∀ (p : Port) (s : State), s.ring.bypass = false → s.ring.isUp p = false → exec (.linkUp p) s =
      .next (settle { s with ring := s.ring.setPort p { s.ring.port p with up := true } }))
    ∧ (∀ (p : Port) (s : State), s.ring.bypass = true ∨ s.ring.isUp p = true →
      exec (.linkUp p) s = .next (settle s))
    ∧ (∀ (p : Port) (s : State), s.ring.isUp p = false → exec (.linkDown p) s = .next (settle s))
    ∧ (∀ (p : Port) (s : State), s.ring.isUp p = true →
      (∀ a, LostAt p s.ring a → a.softReset = false) →
      ((∀ a, ¬LostAt p s.ring a) ∨ (∀ w, s.handler ≠ .waiting w) ∨ 4 ≤ (downed p s.ring).answers.length) →
      exec (.linkDown p) s = .next (settle { s with ring := downed p s.ring }))
    ∧ (∀ (p : Port) (s : State) (w : Answer), s.ring.isUp p = true → (∃ a, LostAt p s.ring a) →
      (∀ a, LostAt p s.ring a → a.softReset = false) → s.handler = .waiting w →
      (downed p s.ring).answers.length < 4 →
      exec (.linkDown p) s = .next (settle (serve (joinAnswers w { s with ring := downed p s.ring }))))
    ∧ (∀ (p : Port) (s : State) (a : Answer), s.ring.isUp p = true → LostAt p s.ring a → a.softReset = true →
      exec (.linkDown p) s = .next (settle (softResetState { s with ring := downed p s.ring })))
    ∧ ∀ (p : Port) (s : State), (∃ t, exec (.linkUp p) s = .next t ∧ t.nv = s.nv ∧ t.handler = s.handler)
        ∧ ∃ t, exec (.linkDown p) s = .next t ∧ t.ring.isUp p = false ∧ t.lines = s.lines

/-- The check value: a register that starts at FFFFh takes the bytes in order, each most significant bit first; for each bit it is
shifted left, and combined with 1021h where its top bit differed from the data bit; the nine digits give 29B1h. Every frame the
part originates carries it after its body, most significant byte first, and an arriving frame passes the check exactly where
it carries it and its size, body length, destination and source are in order. -/
def Obligations.CheckValueOfEveryFrame : Prop :=
  crc16 [] = 0xFFFF
    ∧ (∀ (xs : List Byte) (b : Byte), crc16 (xs ++ [b]) =
        ((List.range 8).foldl (fun (r : Word16) k =>
          if r.msb = b.getLsbD (7 - k) then r <<< 1 else (r <<< 1) ^^^ 0x1021) (crc16 xs)))
    ∧ crc16 [0x31, 0x32, 0x33, 0x34, 0x35, 0x36, 0x37, 0x38, 0x39] = 0x29B1
    ∧ (∀ (h : Header) (kind : Byte) (body : List Byte), mkFrame h kind body =
        [h.dest, h.source, kind, h.sequence, BitVec.ofNat 8 body.length] ++ body
          ++ [BitVec.ofNat 8 ((crc16 ([h.dest, h.source, kind, h.sequence, BitVec.ofNat 8 body.length] ++ body)).toNat / 256),
              BitVec.ofNat 8 (crc16 ([h.dest, h.source, kind, h.sequence, BitVec.ofNat 8 body.length] ++ body)).toNat])
    ∧ (∀ f : List Byte, frameOk f = true ↔
        7 ≤ f.length ∧ u8 f 4 ≤ 240 ∧ f.length = 7 + u8 f 4
          ∧ (crc16 (f.take (5 + u8 f 4))).toNat = u16 f (5 + u8 f 4)
          ∧ ((1 ≤ u8 f 0 ∧ u8 f 0 ≤ 250) ∨ u8 f 0 = 255) ∧ 1 ≤ u8 f 1 ∧ u8 f 1 ≤ 250)

/-- A frame the part originates passes the check of 01 R6 at a part that receives it, and reads back field by field. A DRIVE body is
actuator channel, action (1 CLOSE, 2 OPEN), stroke time in two bytes, token; an ANSWER body the kind and tag as received, the
result's code, its reason, the data; a NOTICE body the notice kind's code, the part time in four bytes, incident, valve and
segment index fields in two bytes each, code; every field most significant byte first (09 R175, R176, R187). The codes that the
fields of answers and notices carry are those of the codes table and of the answer formats of chapter 9: each name with its number,
and the flag and consent bytes as sums. -/
def Obligations.OriginatedFramesReadBack : Prop :=
  (∀ (h : Header) (kind : Byte) (body : List Byte), body.length ≤ 240 →
    (stationOk h.dest = true ∨ h.dest = 255) → stationOk h.source = true →
    frameOk (mkFrame h kind body) = true ∧ frameDest (mkFrame h kind body) = h.dest
      ∧ frameSource (mkFrame h kind body) = h.source ∧ frameKind (mkFrame h kind body) = kind.toNat
      ∧ frameSequence (mkFrame h kind body) = h.sequence ∧ frameBody (mkFrame h kind body) = body)
    ∧ (∀ d : Drive, d.channel ≤ 255 → d.stroke ≤ 65535 → d.token ≤ 255 → d.body.length = 5 ∧ u8 d.body 0 = d.channel
        ∧ u8 d.body 1 = (match d.action with
          | .close => 1
          | .reopen => 2)
        ∧ u16 d.body 2 = d.stroke ∧ u8 d.body 4 = d.token)
    ∧ (∀ (a : Answer) (code reason : Nat),
        (a.result, code, reason) ∈ [(Result.done, 0, 0), (.started, 1, 0), (.busy, 2, 0), (.badRequest, 3, 0),
          (.wrongMode, 4, 0), (.notFound, 5, 0), (.locked, 6, 0), (.refused .covered, 7, 1), (.refused .full, 7, 2),
          (.refused .noTables, 7, 3), (.refused .state, 7, 4), (.noWindow, 8, 0)] →
        a.body = [a.origin.kind, a.origin.tag, BitVec.ofNat 8 code, BitVec.ofNat 8 reason] ++ a.data)
    ∧ (∀ (n : Notice) (code : Nat),
        (n.kind, code) ∈ [(NoticeKind.deviceReset, 0x01), (.modeChanged, 0x02), (.compileDone, 0x10), (.swapDone, 0x11),
          (.tableError, 0x12), (.burstSeen, 0x20), (.locateEmpty, 0x21), (.tableFull, 0x22), (.incidentState, 0x30),
          (.planReady, 0x31), (.valveFault, 0x40), (.lateReport, 0x41), (.reopenSkipped, 0x42), (.valveDisturbed, 0x43),
          (.sensorStale, 0x50)] →
        n.incident ≤ 255 → n.valve ≤ 65535 → n.segment ≤ 65535 → n.code ≤ 255 →
        n.body.length = 11 ∧ u8 n.body 0 = code ∧ u32 n.body 1 = n.time.toNat ∧ u8 n.body 5 = n.incident
          ∧ u16 n.body 6 = n.valve ∧ u16 n.body 8 = n.segment ∧ u8 n.body 10 = n.code)
    ∧ (∀ x ∈ [(Mode.halt, 0), (.watch, 1), (.advise, 2)], x.1.code = x.2)
    ∧ (∀ x ∈ [(IncidentState.pending, 1), (.planning, 2), (.awaitingConsent, 3), (.isolating, 4), (.suspending, 5),
        (.suspended, 6), (.confirming, 7), (.isolated, 8), (.unconfirmed, 9), (.stalled, 10), (.restoring, 11)],
        x.1.code = x.2)
    ∧ (∀ x ∈ [(FaultCause.noResponse, 1), (.jammed, 2), (.overrun, 3), (.stoppedShort, 4), (.held, 5), (.unusable, 6)],
        x.1.code = x.2 ∧ (Progress.faulted x.1).code = 3 ∧ (Progress.faulted x.1).faultCode = x.2)
    ∧ (∀ x ∈ [(Progress.queued, 0), (.inMotion, 1), (.done, 2), (.skipped, 4)], x.1.code = x.2 ∧ x.1.faultCode = 0)
    ∧ (∀ x ∈ [(none, 0), (some StallCause.unbounded, 1), (some .tooLarge, 2), (some .listFull, 3), (some .tableError, 4)],
        stallCode x.1 = x.2)
    ∧ (∀ x ∈ [(CompileResult.ok, 0), (.badField, 1), (.badEndpoint, 2), (.badReference, 3), (.duplicate, 4),
        (.boundaryOverflow, 5), (.noSource, 6), (.conflict, 7), (.assocOverflow, 8), (.writeFailed, 9)], x.1.code = x.2)
    ∧ (∀ x ∈ [(CompileState.idle, 0), (.compiling false, 1), (.compiling true, 1), (.swapPending, 2)], x.1.code = x.2)
    ∧ (∀ x ∈ [(ChannelState.quiet, 0), (.suspect, 1), (.tripped, 2), (.attributed, 3), (.inhibited, 4), (.stale, 5)],
        x.1.code = x.2)
    ∧ (∀ x ∈ [(Position.opened, 0), (.closed, 1), (.mid, 2), (.unknown, 3)], x.1.code = x.2)
    ∧ (∀ x ∈ [(Action.close, 1), (.reopen, 2)], x.1.code = x.2)
    ∧ (∀ x ∈ [(ValveMark.normal, 0), (.moving, 1), (.failed, 2)], x.1.code = x.2)
    ∧ (∀ x ∈ [(Phase.issued, 1), (.moving, 2)], x.1.code = x.2)
    ∧ (∀ x ∈ [(Role.boundary, 0), (.interior, 1)], x.1.code = x.2)
    ∧ (∀ x ∈ [(RaiseCause.detected, 0), (.manual, 1)], x.1.code = x.2)
    ∧ (∀ x ∈ [(TableName.segment, 0), (.valve, 1), (.sensor, 2), (.association, 3)], x.1.code = x.2)
    ∧ (∀ x ∈ [(BankId.a, 0), (.b, 1)], x.1.code = x.2)
    ∧ (∀ x ∈ [(Area.segment, 0), (.valve, 1), (.sensor, 2), (.association, 3), (.segmentIndex, 4), (.sensorIndex, 5),
        (.stationIndex, 6)], x.1.code = x.2)
    ∧ (∀ i : Incident, i.flags =
        (if i.unverified = true then 1 else 0) + (if i.releaseRequested = true then 2 else 0)
          + (if i.owed = true then 4 else 0))
    ∧ ∀ k : Causes, k.code =
        (if k.advise = true then 1 else 0) + (if k.protect = true then 2 else 0) + (if k.outageLimit = true then 4 else 0)

/-- FRAME_ARRIVAL of a frame that is not forwarded, in the order of the decisions: nothing is received at a DOWN port; both buffers
occupied, overflow counts; a failed check, bad-frame counts; the part's own frame is stripped; a frame to the part other than a
REQUEST is dropped; a REQUEST from no manager, refused-source counts; a REQUEST from a manager is held while the handler is
not READY. Counters stay at 65535. A REQUEST frame to the part is the same arrival, whatever the kind in its body, as the command
REQUEST_UNKNOWN_KIND of its whole body: one meaning for every REQUEST is the model's reading of the table (log 4; log 33 for a body
of a listed kind given to that command). -/
def Obligations.ArrivalsThatAreNotForwarded : Prop :=
  ∀ (p : Port) (f : List Byte) (s : State),
    (s.ring.isUp p = false → exec (.frameArrival p f) s = .next (settle s))
    ∧ (s.ring.isUp p = true → 2 ≤ s.ring.occupied p → exec (.frameArrival p f) s =
        .next (settle { s with ring := { s.ring with
          overflow := if s.ring.overflow = 65535 then 65535 else s.ring.overflow + 1 } }))
    ∧ (s.ring.isUp p = true → s.ring.occupied p < 2 →
        (frameOk f = false → exec (.frameArrival p f) s =
          .next (settle { s with ring := { s.ring with
            badFrame := if s.ring.badFrame = 65535 then 65535 else s.ring.badFrame + 1 } }))
        ∧ (frameOk f = true →
          (u8 f 1 = s.nv.settings.partAddress ∨ s.ring.retired = some (byteAt f 1) →
            exec (.frameArrival p f) s = .next (settle s))
          ∧ (u8 f 1 ≠ s.nv.settings.partAddress → s.ring.retired ≠ some (byteAt f 1) →
            u8 f 0 = s.nv.settings.partAddress →
            (u8 f 2 ≠ 0x31 → exec (.frameArrival p f) s = .next (settle s))
            ∧ (u8 f 2 = 0x31 → exec (.frameArrival p f) s =
                exec (.requestUnknownKind p (byteAt f 1) ((f.drop 5).take (u8 f 4))) s)
            ∧ (u8 f 2 = 0x31 → u8 f 1 ≠ s.nv.settings.primary →
                (s.nv.settings.standby = 0 ∨ u8 f 1 ≠ s.nv.settings.standby) → exec (.frameArrival p f) s =
                .next (settle { s with ring := { s.ring with
                  refusedSource := if s.ring.refusedSource = 65535 then 65535 else s.ring.refusedSource + 1 } }))
            ∧ (u8 f 2 = 0x31 →
                (u8 f 1 = s.nv.settings.primary ∨ (s.nv.settings.standby ≠ 0 ∧ u8 f 1 = s.nv.settings.standby)) →
                s.handler ≠ .ready → exec (.frameArrival p f) s =
                .next (settle { s with ring := { s.ring with
                  buffers := s.ring.buffers ++ [⟨p, .request (byteAt f 1) ((f.drop 5).take (u8 f 4))⟩] } })))))

/-- FRAME_ARRIVAL of a checked frame for another station or broadcast: it takes a buffer and awaits the opposite output, or is
discarded where that link is DOWN, a SAMPLE or a POSITION like any other; one of any other kind is not otherwise acted on. -/
def Obligations.OtherFramesAreForwarded : Prop :=
  ∀ (p : Port) (f : List Byte) (s : State), s.ring.isUp p = true → s.ring.occupied p < 2 → frameOk f = true →
    u8 f 1 ≠ s.nv.settings.partAddress → s.ring.retired ≠ some (byteAt f 1) → u8 f 0 ≠ s.nv.settings.partAddress →
    (u8 f 2 ≠ 0x11 → u8 f 2 ≠ 0x21 →
      (s.ring.isUp p.other = true → exec (.frameArrival p f) s =
          .next (settle { s with ring := { s.ring with buffers := s.ring.buffers ++ [⟨p, .forward f false⟩] } }))
      ∧ (s.ring.isUp p.other = false → exec (.frameArrival p f) s = .next (settle s)))
    ∧ (u8 f 2 = 0x11 ∨ u8 f 2 = 0x21 → ∃ u : State, exec (.frameArrival p f) s = .next (settle u)
      ∧ u.ring = { s.ring with
          buffers := if s.ring.isUp p.other then s.ring.buffers ++ [⟨p, .forward f false⟩] else s.ring.buffers
          badFrame := u.ring.badFrame }
      ∧ u.nv = s.nv ∧ u.handler = s.handler)

/-- A forwarded, well-formed SAMPLE is taken unless its sequence equals its source's entry of the last-sample-sequence table:
taken, the entry is set to its sequence, no other entry changes, and its readings are taken in their order; a duplicate, or a
malformed SAMPLE, changes neither the table nor any channel, and a malformed one counts as a bad frame. A reading taken is passed
over where its pair is not found, its sensor is POISONED, it is SUSPECT or its channel is INHIBITED; else it is evaluated in its
channel, the scores it touches are recomputed, and an ATTRIBUTED channel that it makes QUIET leaves its incident's list. That
scores and window tests are brought up to date after each reading, and not once at the SAMPLE's end, is the model's choice (log
23), and so is that each reading begins a part of the event, behind the notices of the readings before it (log 15). A SAMPLE is
well formed where its reading count is 1 to 8, its length 5 + 4 times that, every reading channel 0 to 7 and every quality 0 or 1;
it is read as station time, then a channel, a quality and a value for each reading. The sensor lookup gives a present sensor of
the pair, and none where there is none. -/
def Obligations.SamplesAreTakenOnce : Prop :=
  (∀ (p : Port) (f : List Byte) (s : State), s.ring.isUp p = true → s.ring.occupied p < 2 → frameOk f = true →
    u8 f 1 ≠ s.nv.settings.partAddress → s.ring.retired ≠ some (byteAt f 1) → u8 f 0 ≠ s.nv.settings.partAddress →
    u8 f 2 = 0x11 → ∃ t, exec (.frameArrival p f) s = .next t
      ∧ (sampleOf (frameBody f) = none → t.core.wu = s.core.wu
          ∧ t.ring.badFrame = (if s.ring.badFrame = 65535 then 65535 else s.ring.badFrame + 1))
      ∧ (∀ x, sampleOf (frameBody f) = some x → t.ring.badFrame = s.ring.badFrame
          ∧ t.core.wu.lastSeq.at? (u8 f 1) = some (byteAt f 3)
          ∧ (∀ st, st ≠ u8 f 1 → t.core.wu.lastSeq.at? st = s.core.wu.lastSeq.at? st)
          ∧ (s.core.wu.lastSeq.at? (u8 f 1) = some (byteAt f 3) → t.core.wu = s.core.wu ∧ t.core.lu = s.core.lu
              ∧ t.core.ic = s.core.ic ∧ t.core.ts = s.core.ts))
      ∧ t.nv = s.nv ∧ t.handler = s.handler ∧ t.ring.overflow = s.ring.overflow
      ∧ t.ring.refusedSource = s.ring.refusedSource
      ∧ ∀ time xs, sampleOf (frameBody f) = some (time, xs) →
          s.core.wu.lastSeq.at? (u8 f 1) ≠ some (byteAt f 3) → ∃ u, t = settle u
            ∧ u.core = xs.foldl (takeReading s.nv (u8 f 1) time)
                { s.core with wu := { s.core.wu with lastSeq := s.core.wu.lastSeq.put (u8 f 1) (byteAt f 3) } })
    ∧ (∀ (nv : Nv) (st time : Nat) (x : Reading) (c d : Core), d = touchIndex nv .stationIndex st (beginPart c) →
      (indexPoisoned .stationIndex st d = true ∨ d.ts.valid = false ∨ nv.active.tables.sensorAt st x.channel = none →
        takeReading nv st time c x = d)
      ∧ ∀ (i : Nat) (e : Core), indexPoisoned .stationIndex st d = false → d.ts.valid = true →
        nv.active.tables.sensorAt st x.channel = some i → e = touchEntry nv .sensor i d →
        ((∀ r, seen nv .sensor i e ≠ .value r) ∨ indexPoisoned .sensorIndex i e = true ∨ x.suspect = true
            ∨ (channelOf i e).state = .inhibited → takeReading nv st time c x = luUpdate nv e)
        ∧ ∀ (r : Record) (old new : Channel) (k m : Core), seen nv .sensor i e = .value r →
          indexPoisoned .sensorIndex i e = false → x.suspect = false → (channelOf i e).state ≠ .inhibited →
          old = channelOf i e → new = evaluated r.sensor x.value time old → k = setChannel i new e →
          m = (if (old.state = .tripped ∨ new.state = .tripped)
              ∧ (old.state ≠ new.state ∨ old.deviation ≠ new.deviation) then touchRun nv i k else k) →
          (∀ n, old.incident = some n → old.state = .attributed → new.state = .quiet →
            takeReading nv st time c x = luUpdate nv (leaveList n i .released m))
          ∧ (old.incident = none ∨ old.state ≠ .attributed ∨ new.state ≠ .quiet →
            takeReading nv st time c x = luUpdate nv m))
    ∧ (∀ body : List Byte,
      (sampleOf body ≠ none ↔ 1 ≤ u8 body 4 ∧ u8 body 4 ≤ 8 ∧ body.length = 5 + 4 * u8 body 4
        ∧ ∀ k, k < u8 body 4 → u8 body (5 + 4 * k) ≤ 7 ∧ u8 body (6 + 4 * k) ≤ 1)
      ∧ ∀ time xs, sampleOf body = some (time, xs) → time = u32 body 0 ∧ xs.length = u8 body 4
        ∧ ∀ k x, xs[k]? = some x → x.channel = u8 body (5 + 4 * k) ∧ (x.suspect = true ↔ u8 body (6 + 4 * k) = 1)
          ∧ x.value = u16 body (7 + 4 * k))
    ∧ ∀ (t : Tables) (st ch : Nat), t.sensors.wf = true →
      (∀ i, t.sensorAt st ch = some i → ∃ r, t.sensors.at? i = some r ∧ r.sensor.station = st ∧ r.sensor.channel = ch)
      ∧ (t.sensorAt st ch = none ↔ ∀ i r, t.sensors.at? i = some r → r.sensor.station = st → r.sensor.channel ≠ ch)

/-- A forwarded POSITION that is malformed counts as a bad frame and moves no valve; a well-formed one reads its station's index
record, which one wrong bit leaves CORRECTED and two leave POISONED, and is passed over in table state NONE, where that record is
POISONED, already or newly, or where its pair is not found: it then does nothing but that read and the recomputation that follows
a POSITION's effect (log 43). One found, the record CORRECTED or not, sets the valve's position and echoed token, and no other
valve's, where the valve has no motion in flight. A POSITION is well formed where its length is 4, its channel 0 to 15, its
position code 0 to 3 and its motion code 0 to 2; any token will do. The actuator lookup gives a present valve of the pair, and
none where there is none. -/
def Obligations.PositionsUpdateTheirValve : Prop :=
  (∀ (p : Port) (f : List Byte) (s : State), s.ring.isUp p = true → s.ring.occupied p < 2 → frameOk f = true →
    u8 f 1 ≠ s.nv.settings.partAddress → s.ring.retired ≠ some (byteAt f 1) → u8 f 0 ≠ s.nv.settings.partAddress →
    u8 f 2 = 0x21 → ∃ t, exec (.frameArrival p f) s = .next t
      ∧ (positionOf (frameBody f) = none → t.core.ds.valves = s.core.ds.valves
          ∧ t.ring.badFrame = (if s.ring.badFrame = 65535 then 65535 else s.ring.badFrame + 1))
      ∧ (∀ r, positionOf (frameBody f) = some r → t.ring.badFrame = s.ring.badFrame
          ∧ (s.core.ts.valid = false ∨ poisonedAt s.core ⟨.stationIndex, u8 f 1⟩ = true
              ∨ s.nv.active.wrongAt ⟨.stationIndex, u8 f 1⟩ = some .two
              ∨ s.nv.active.tables.actuator (u8 f 1) r.channel = none →
              (∃ u, t = settle u ∧ u.core = luUpdate s.nv (touchIndex s.nv .stationIndex (u8 f 1) s.core))
              ∧ t.core.ds.valves = s.core.ds.valves ∧ t.core.ds.slots = s.core.ds.slots
              ∧ t.core.ic.table = s.core.ic.table)
          ∧ (s.core.ts.valid = true → markAt s.core ⟨.stationIndex, u8 f 1⟩ = none →
              s.nv.active.wrongAt ⟨.stationIndex, u8 f 1⟩ = some .one →
              markAt (touchIndex s.nv .stationIndex (u8 f 1) s.core) ⟨.stationIndex, u8 f 1⟩ = some .corrected)
          ∧ (s.core.ts.valid = true → s.nv.active.wrongAt ⟨.stationIndex, u8 f 1⟩ = some .two →
              markAt (touchIndex s.nv .stationIndex (u8 f 1) s.core) ⟨.stationIndex, u8 f 1⟩ = some .poisoned)
          ∧ (∀ v, s.core.ts.valid = true → poisonedAt s.core ⟨.stationIndex, u8 f 1⟩ = false →
              s.nv.active.wrongAt ⟨.stationIndex, u8 f 1⟩ ≠ some .two →
              s.nv.active.tables.actuator (u8 f 1) r.channel = some v → motionOf v s.core = none →
              valveOf v t.core = { valveOf v s.core with position := r.position, echo := r.token }
              ∧ (∀ w, w ≠ v → valveOf w t.core = valveOf w s.core)
              ∧ t.core.ds.slots = s.core.ds.slots ∧ t.core.ic.table = s.core.ic.table))
      ∧ t.nv = s.nv ∧ t.handler = s.handler ∧ t.core.wu.lastSeq = s.core.wu.lastSeq)
    ∧ (∀ body : List Byte,
      (positionOf body ≠ none ↔ body.length = 4 ∧ u8 body 0 ≤ 15 ∧ u8 body 1 ≤ 3 ∧ u8 body 2 ≤ 2)
      ∧ ∀ r, positionOf body = some r → r.channel = u8 body 0 ∧ r.token = u8 body 3
        ∧ (r.position, u8 body 1) ∈ [(Position.opened, 0), (.closed, 1), (.mid, 2), (.unknown, 3)]
        ∧ (r.motion, u8 body 2) ∈ [(MotionCode.idle, 0), (.moving, 1), (.jammed, 2)])
    ∧ ∀ (t : Tables) (st ch : Nat), t.valves.wf = true →
      (∀ v, t.actuator st ch = some v → ∃ r, t.valves.at? v = some r ∧ r.valve.station = st ∧ r.valve.channel = ch)
      ∧ (t.actuator st ch = none ↔ ∀ v r, t.valves.at? v = some r → r.valve.station = st → r.valve.channel ≠ ch)

/-- A well-formed POSITION found for a valve (01 R13, 08 R152), its station's index record read and sound or CORRECTED, acts on
the valve's motion in flight by its token, motion code and position: another token moves no motion; MOVING makes an ISSUED slot
MOVING, its stroke timer started at the stroke time plus a quarter rounded up; IDLE at the target completes the motion, elsewhere
it faults STOPPED_SHORT; JAMMED faults. With no motion in flight it may queue VALVE_DISTURBED and LATE_REPORT. That the scores are
brought up to date at the event's end is the model's choice (log 43). -/
def Obligations.ReportsMoveTheirMotion : Prop :=
  ∀ (p : Port) (f : List Byte) (s : State) (r : Report) (v : Nat) (x : ValveStatus) (c d : Core),
    s.ring.isUp p = true → s.ring.occupied p < 2 → frameOk f = true →
    u8 f 1 ≠ s.nv.settings.partAddress → s.ring.retired ≠ some (byteAt f 1) → u8 f 0 ≠ s.nv.settings.partAddress →
    u8 f 2 = 0x21 → positionOf (frameBody f) = some r → s.core.ts.valid = true →
    poisonedAt s.core ⟨.stationIndex, u8 f 1⟩ = false → s.nv.active.wrongAt ⟨.stationIndex, u8 f 1⟩ ≠ some .two →
    s.nv.active.tables.actuator (u8 f 1) r.channel = some v → x = valveOf v s.core →
    c = touchIndex s.nv .stationIndex (u8 f 1) s.core → d = setValve v { x with position := r.position, echo := r.token } c →
    ∃ u, exec (.frameArrival p f) s = .next (settle u) ∧ u.nv = s.nv ∧ u.handler = s.handler
      ∧ (∀ k m, motionOf v s.core = some (k, m) →
        (r.token ≠ m.token → u.core = luUpdate s.nv d)
        ∧ (r.token = m.token →
          (r.motion = .moving → m.phase = .issued → u.core = luUpdate s.nv (setSlot k { m with
            phase := .moving, response := none, strokeTimer := some ((m.stroke + (m.stroke + 3) / 4) * 1000) } d))
          ∧ (r.motion = .moving → m.phase = .moving → u.core = luUpdate s.nv d)
          ∧ (r.motion = .idle → r.position = m.action.target → u.core = luUpdate s.nv (arbiter s.nv
            (endEntry s.nv m.owner m.valve m.action .done (freeSlot k m .normal d))))
          ∧ (r.motion = .idle → r.position ≠ m.action.target → u.core = luUpdate s.nv (arbiter s.nv
            (faultEntry s.nv m.owner m.valve m.action .stoppedShort (countFault m.valve (freeSlot k m .failed d)))))
          ∧ (r.motion = .jammed → u.core = luUpdate s.nv (arbiter s.nv
            (faultEntry s.nv m.owner m.valve m.action .jammed (countFault m.valve (freeSlot k m .failed d)))))))
      ∧ (motionOf v s.core = none → ∃ e late : Core, u.core = luUpdate s.nv late
        ∧ (0 < x.claims ∧ (r.position = .opened ∨ r.position = .mid) ∧ x.position = .closed →
          e = notify .valveDisturbed 0 v 65535 r.position.code d)
        ∧ (¬(0 < x.claims ∧ (r.position = .opened ∨ r.position = .mid) ∧ x.position = .closed) → e = d)
        ∧ (∀ a, x.lastAction = some a →
          (x.status = .failed ∧ r.motion = .idle ∧ r.position = a.target ∧ x.position ≠ a.target →
            late = notify .lateReport 0 v 65535 r.position.code e)
          ∧ (¬(x.status = .failed ∧ r.motion = .idle ∧ r.position = a.target ∧ x.position ≠ a.target) → late = e))
        ∧ (x.lastAction = none → late = e))

/-- TRANSMIT_COMPLETION: an IDLE output is left so (log 1); at the end of a transmission the output becomes IDLE, and a forwarded
frame's buffer, the DRIVE copy sent, or the answer sent leaves the part, whose arbiters then run. Where an answer left and the
handler was WAITING, the answer in hand joins the queue and the held requests are taken; READY, WORKING or RESET_PENDING, the
handler goes on as it was; and where the answer to SOFT RESET left, the soft reset takes place. -/
def Obligations.TransmissionsEnd : Prop :=
  ∀ (p : Port) (s : State),
    ((s.ring.port p).output = .idle → exec (.transmitCompletion p) s = .next (settle s))
    ∧ (∀ f, (s.ring.port p).output = .sending f .notice → exec (.transmitCompletion p) s =
        .next (settle { s with ring := s.ring.setPort p { s.ring.port p with output := .idle } }))
    ∧ (∀ f, (s.ring.port p).output = .sending f .drive → exec (.transmitCompletion p) s =
        .next (settle { s with ring := s.ring.setPort p { s.ring.port p with
          output := .idle, drives := (s.ring.port p).drives.filter fun x => !x.sending } }))
    ∧ (∀ f pre g post, (s.ring.port p).output = .sending f .forwarded →
        s.ring.buffers = pre ++ ⟨p.other, .forward g true⟩ :: post →
        (∀ b ∈ pre, ∀ h, b ≠ (⟨p.other, .forward h true⟩ : Buffered)) → exec (.transmitCompletion p) s =
        .next (settle { s with ring := { (s.ring.setPort p { s.ring.port p with output := .idle }) with
          buffers := pre ++ post } }))
    ∧ (∀ f, (s.ring.port p).output = .sending f .answer → (∀ a ∈ s.ring.answers, a.softReset = false) →
        s.handler = .ready → exec (.transmitCompletion p) s =
        .next (settle { s with ring := { (s.ring.setPort p { s.ring.port p with output := .idle }) with
          answers := s.ring.answers.filter fun a => !(a.origin.port == p && a.sending) } }))
    ∧ (∀ f pre a post w, (s.ring.port p).output = .sending f .answer → (∀ a ∈ s.ring.answers, a.softReset = false) →
        s.ring.answers = pre ++ a :: post → a.origin.port = p → a.sending = true →
        (∀ b ∈ pre ++ post, ¬(b.origin.port = p ∧ b.sending = true)) → (pre ++ post).length < 4 →
        s.handler = .waiting w → w.softReset = false → s.ring.isUp w.origin.port = true →
        takeHeld s.ring.buffers = none → exec (.transmitCompletion p) s =
        .next (settle { s with
          handler := .ready
          ring := { (s.ring.setPort p { s.ring.port p with output := .idle }) with answers := pre ++ post ++ [w] } }))
    ∧ ∀ f r, (s.ring.port p).output = .sending f .answer →
        r = { (s.ring.setPort p { s.ring.port p with output := .idle }) with
          answers := s.ring.answers.filter fun a => !(a.origin.port == p && a.sending) } →
        ((∀ a ∈ s.ring.answers, a.origin.port = p → a.sending = true → a.softReset = false) →
          (((∀ w, s.handler ≠ .waiting w) ∨ (∀ a ∈ s.ring.answers, ¬(a.origin.port = p ∧ a.sending = true))
              ∨ 4 ≤ r.answers.length) → exec (.transmitCompletion p) s = .next (settle { s with ring := r }))
          ∧ ∀ w, s.handler = .waiting w → (∃ a ∈ s.ring.answers, a.origin.port = p ∧ a.sending = true) →
            r.answers.length < 4 →
            exec (.transmitCompletion p) s = .next (settle (serve (joinAnswers w { s with ring := r }))))
        ∧ ((∃ a ∈ s.ring.answers, a.origin.port = p ∧ a.sending = true ∧ a.softReset = true) →
          exec (.transmitCompletion p) s = .next (settle (softResetState { s with ring := r })))

/-- A header completed now: the part address as source, the own sequence as sequence (01 R5). -/
def completed (dest : Byte) (s : State) : Header := ⟨dest, BitVec.ofNat 8 s.nv.settings.partAddress, s.ring.ownSequence⟩

/-- The header under which a frame is taken, and the own sequence after it: the header kept, the sequence staying, or one completed
now, the sequence incremented (01 R5). -/
def TakenUnder (kept : Option Header) (dest : Byte) (s : State) (h : Header) (sequence : Byte) : Prop :=
  (kept = some h ∧ sequence = s.ring.ownSequence)
    ∨ (kept = none ∧ h = completed dest s ∧ sequence = s.ring.ownSequence + 1)

/-- No buffer of a list holds a frame that awaits a port's output (01 R10). -/
def NoneAwaits (p : Port) (bs : List Buffered) : Prop := ∀ b ∈ bs, ∀ f, b ≠ (⟨p.other, .forward f false⟩ : Buffered)

/-- No answer of a list bound to a port waits: what is bound to it is in transmission (01 R16). -/
def NoneWaits (p : Port) (as : List Answer) : Prop := ∀ a ∈ as, a.origin.port = p → a.sending = true

/-- A copy of a DRIVE in a queue once a copy of it has been taken under a header: a waiting one that has none keeps that header
(01 R5). -/
def withHeader (slot : Nat) (h : Header) (y : DriveCopy) : DriveCopy :=
  if y.drive.slot = slot ∧ y.sending = false ∧ y.header = none then { y with header := some h } else y

/-- The ring with a port's output sending a frame (01 R14). -/
def sendingAt (p : Port) (frame : List Byte) (what : Sent) (r : Ring) : Ring :=
  r.setPort p { r.port p with output := .sending frame what }

/-- An IDLE output of an UP port takes by kind: first the oldest DRIVE copy, then the first frame awaiting it, then the first answer
bound to it, then the head notice it has not yet taken; with nothing eligible, or while SENDING or DOWN, it takes nothing. A
header kept from the first copy of a DRIVE or NOTICE is carried again and the own sequence stays; one completed now carries
the own sequence, which increments once, and is kept for the other port's copy. A forwarded frame goes as it came. What is taken is
marked in transmission, the head notice as taken by that port, leaving its queue once both have; nothing else changes. -/
def Obligations.OutputsPreferByKind : Prop :=
  ∀ (p : Port) (s : State),
    ((s.ring.isUp p = false ∨ (s.ring.port p).output ≠ .idle) → arbitrate p s = s)
    ∧ (s.ring.isUp p = true → (s.ring.port p).output = .idle →
      (∀ d ds h n, (s.ring.port p).drives = d :: ds → TakenUnder d.header (BitVec.ofNat 8 d.drive.station) s h n →
        arbitrate p s = { s with ring := { ((s.ring.setPort p { s.ring.port p with
            output := .sending (mkFrame h 0x22 d.drive.body) .drive
            drives := { withHeader d.drive.slot h d with sending := true } :: ds.map (withHeader d.drive.slot h) }).setPort
          p.other { s.ring.port p.other with
            drives := (s.ring.port p.other).drives.map (withHeader d.drive.slot h) }) with ownSequence := n } })
      ∧ (∀ pre g post, (s.ring.port p).drives = [] → s.ring.buffers = pre ++ ⟨p.other, .forward g false⟩ :: post →
        NoneAwaits p pre → arbitrate p s = { s with ring := { (sendingAt p g .forwarded s.ring) with
          buffers := pre ++ ⟨p.other, .forward g true⟩ :: post } })
      ∧ (∀ pre a post, (s.ring.port p).drives = [] → NoneAwaits p s.ring.buffers →
        s.ring.answers = pre ++ a :: post → NoneWaits p pre → a.origin.port = p → a.sending = false →
        arbitrate p s = { s with ring := {
          (sendingAt p (mkFrame (completed a.origin.station s) 0x32 a.body) .answer s.ring) with
          answers := pre ++ { a with sending := true } :: post, ownSequence := s.ring.ownSequence + 1 } })
      ∧ (∀ x ns, (s.ring.port p).drives = [] → NoneAwaits p s.ring.buffers → NoneWaits p s.ring.answers →
        s.core.log.notices = x :: ns →
        (s.ring.head.taken p = true → arbitrate p s = s)
        ∧ (s.ring.head.taken p = false → ∀ h n r,
          TakenUnder s.ring.head.header (BitVec.ofNat 8 s.nv.settings.primary) s h n →
          r = { (sendingAt p (mkFrame h 0x33 x.body) .notice s.ring) with ownSequence := n } →
          (s.ring.head.taken p.other = false →
            arbitrate p s = { s with ring := { r with head := ⟨decide (p = .east), decide (p = .west), some h⟩ } })
          ∧ (s.ring.head.taken p.other = true → arbitrate p s = { s with
              core := { s.core with log := { s.core.log with notices := ns } }
              ring := { r with head := ⟨false, false, none⟩ } })))
      ∧ ((s.ring.port p).drives = [] → NoneAwaits p s.ring.buffers → NoneWaits p s.ring.answers →
        s.core.log.notices = [] → arbitrate p s = s))

/-- What `settle` is and leaves, with which every event of the part in operation ends. It hands the drives issued and the slots
freed in the event to both ports' queues, in their order, and nothing of them is left; then ports whose link is DOWN discard the
head notice where the other is UP, and the outputs take what is eligible, East before West (log 16), until nothing is: no UP port
with an IDLE output has a DRIVE copy, a frame awaiting it, an answer bound to it or a head notice not yet taken left, and no DOWN
port has left the head untaken while the other port is UP. The next event's notices join behind those queued (log 15). -/
def Obligations.OutputsComeToRest : Prop :=
  (∀ (s : State) (p : Port),
    ((settle s).ring.isUp p = true → ((settle s).ring.port p).output = .idle →
      ((settle s).ring.port p).drives = [] ∧ NoneAwaits p (settle s).ring.buffers ∧ NoneWaits p (settle s).ring.answers
        ∧ ((settle s).core.log.notices = [] ∨ (settle s).ring.head.taken p = true))
    ∧ ((settle s).ring.isUp p = false → (settle s).ring.isUp p.other = true →
        (settle s).core.log.notices = [] ∨ (settle s).ring.head.taken p = true))
    ∧ (∀ (s u : State) (takings : State → State),
      u = { s with core := { s.core with ds := { s.core.ds with outbox := [] } }
                   ring := s.core.ds.outbox.foldl driveOrder s.ring } →
      (∀ v, takings v = arbitrate .west (arbitrate .east (discardHead .west (discardHead .east v)))) →
      settle s = settle u ∧ (settle s).core.ds.outbox = []
        ∧ ∀ v, v = takings (takings (takings (takings u))) →
          takings v = v ∧ settle s = { v with core := beginPart v.core })
    ∧ ∀ (p : Port) (s : State),
      ((s.core.log.notices = [] ∨ s.ring.isUp p = true ∨ s.ring.isUp p.other = false) → discardHead p s = s)
      ∧ ∀ x ns, s.core.log.notices = x :: ns → s.ring.isUp p = false → s.ring.isUp p.other = true →
        (s.ring.head.taken p.other = true → discardHead p s = { s with
          core := { s.core with log := { s.core.log with notices := ns } }
          ring := { s.ring with head := ⟨false, false, none⟩ } })
        ∧ (s.ring.head.taken p.other = false → discardHead p s = { s with
          ring := { s.ring with head := ⟨decide (p = .east), decide (p = .west), s.ring.head.header⟩ } })

/-! ### Requests -/

/-- The arrival of a request whatever its kind: nothing at a DOWN port; lost and counted with both buffers occupied; refused and
counted from no manager; held while the handler is not READY; and else taken. A request taken has its effect and comes to an
answer, or to an operation that takes time, whatever answers are queued: the answer joins them, or with 4 queued the handler
becomes WAITING with it in hand. Every row of the request index is such an arrival, of its kind (log 4). With the handler READY
and a request held, the oldest is taken, and so on, the notices of each taking behind those of the takings before it (log 15); an
answer joins the queue bound to its request's port where that is UP, else to the other, and is discarded where both are DOWN. -/
def Obligations.RequestsArriveInEveryState : Prop :=
  (∀ (p : Port) (station : Byte) (body : List Byte) (s : State),
    (s.ring.isUp p = false → exec (.requestUnknownKind p station body) s = .next (settle s))
    ∧ (s.ring.isUp p = true → 2 ≤ s.ring.occupied p → exec (.requestUnknownKind p station body) s =
        .next (settle { s with ring := { s.ring with
          overflow := if s.ring.overflow = 65535 then 65535 else s.ring.overflow + 1 } }))
    ∧ (s.ring.isUp p = true → s.ring.occupied p < 2 → ownSource s station = true →
        exec (.requestUnknownKind p station body) s = .next (settle s))
    ∧ (s.ring.isUp p = true → s.ring.occupied p < 2 → ownSource s station = false →
        isManager s.nv.settings station = false → exec (.requestUnknownKind p station body) s =
        .next (settle { s with ring := { s.ring with
          refusedSource := if s.ring.refusedSource = 65535 then 65535 else s.ring.refusedSource + 1 } }))
    ∧ (s.ring.isUp p = true → s.ring.occupied p < 2 → ownSource s station = false →
        isManager s.nv.settings station = true → s.handler ≠ .ready →
        exec (.requestUnknownKind p station body) s =
        .next (settle { s with ring := { s.ring with buffers := s.ring.buffers ++ [⟨p, .request station body⟩] } }))
    ∧ ∀ q : Request, ∀ row ∈ ([(0x01, .status q), (0x02, .readSettings q), (0x03, .setSetting q), (0x04, .setMode q),
        (0x05, .zoneMask q), (0x10, .loadWindow q), (0x11, .loadData q), (0x12, .fill q), (0x13, .copyActive q),
        (0x14, .compile q), (0x15, .readEntry q), (0x20, .raise q), (0x21, .consent q), (0x22, .refuse q),
        (0x23, .suspend q), (0x24, .resume q), (0x25, .release q), (0x26, .expand q), (0x27, .retry q),
        (0x28, .readIncident q), (0x30, .setHold q), (0x31, .holdLock q), (0x32, .clearFault q), (0x33, .readValve q),
        (0x34, .readSensor q), (0x3F, .softReset q)] : List (Byte × Instr)),
      exec row.2 s = exec (.requestUnknownKind q.port q.station (row.1 :: q.tag :: q.args)) s)
  ∧ (∀ (p : Port) (station : Byte) (body : List Byte) (s : State), Taken p station s →
      exec (.requestUnknownKind p station body) s = .next (settle (takeRequest p station body s)))
  ∧ (∀ (p : Port) (station : Byte) (body : List Byte) (s : State), ∃ (nv : Nv) (c : Core),
      (∃ a : Answer, a.origin = ⟨p, station, byteAt body 0, byteAt body 1⟩ ∧ a.sending = false ∧ ∀ (as : List Answer) (u : State),
        u = { s with ring := { s.ring with answers := as } } →
        takeRequest p station body u = handAnswer a { u with nv := nv, core := c })
      ∨ ∃ job : Job, ∀ (as : List Answer) (u : State), u = { s with ring := { s.ring with answers := as } } →
        takeRequest p station body u = { u with nv := nv, core := c, handler := .working job })
  ∧ (∀ (a : Answer) (s : State), (s.ring.answers.length < 4 → handAnswer a s = joinAnswers a s)
      ∧ (4 ≤ s.ring.answers.length → handAnswer a s = { s with handler := .waiting a }))
  ∧ (∀ s : State, s.handler ≠ .ready ∨ takeHeld s.ring.buffers = none → serve s = s)
  ∧ (∀ (s : State) (p : Port) (station : Byte) (body : List Byte) (pre post : List Buffered), s.handler = .ready →
      s.ring.buffers = pre ++ ⟨p, .request station body⟩ :: post → takeHeld pre = none →
      serve s = serve (endEvent (takeRequest p station body { s with ring := { s.ring with buffers := pre ++ post } })))
  ∧ ∀ (a : Answer) (s : State),
      (s.ring.isUp a.origin.port = true → joinAnswers a s = { s with
        ring := { s.ring with answers := s.ring.answers ++ [a] }
        handler := if a.softReset then .resetPending else .ready })
      ∧ (s.ring.isUp a.origin.port = false → s.ring.isUp a.origin.port.other = true → joinAnswers a s = { s with
        ring := { s.ring with
          answers := s.ring.answers ++ [{ a with origin := { a.origin with port := a.origin.port.other } }] }
        handler := if a.softReset then .resetPending else .ready })
      ∧ (s.ring.isUp a.origin.port = false → s.ring.isUp a.origin.port.other = false →
        joinAnswers a s = if a.softReset then softResetState s else { s with handler := .ready })

/-- A body shorter than two bytes, or of a kind outside the request index, is answered BAD_REQUEST with the kind and tag bytes as
received, 0 where the body has none, and closes the load window (log 33 for a body of one byte that is a load kind). -/
def Obligations.UnknownKindsAreBadRequests : Prop :=
  ∀ (p : Port) (station : Byte) (s : State), Taken p station s →
    exec (.requestUnknownKind p station []) s =
        .next (settle (handed ⟨p, station, 0, 0⟩ .badRequest [] { s with core := closed s.core }))
    ∧ (∀ k, exec (.requestUnknownKind p station [k]) s =
        .next (settle (handed ⟨p, station, k, 0⟩ .badRequest [] { s with core := closed s.core })))
    ∧ (∀ k tag args, requestKinds.contains k.toNat = false →
        exec (.requestUnknownKind p station (k :: tag :: args)) s =
        .next (settle (handed ⟨p, station, k, tag⟩ .badRequest [] { s with core := closed s.core })))

/-- STATUS is answered DONE with the part's standing, byte by byte as the format gives it, and changes nothing else; with arguments
it is answered BAD_REQUEST. -/
def Obligations.StatusReportsThePart : Prop :=
  ∀ (q : Request) (s : State), TakenNow q s →
    (q.args ≠ [] → Refuses (.status q) q 0x01 s .badRequest)
    ∧ (q.args = [] → s.core.ic.table.length ≤ 16 → s.core.ds.slots.length ≤ 8 → s.core.log.notices.length ≤ 32 →
        (∀ e ∈ s.core.ic.table, e.2.number ≤ 255) →
        ∃ d, Answers (.status q) q 0x01 s .done d s.nv (closed s.core) ∧ d.length = 60
          ∧ u8 d 0 = s.core.ic.mode.code ∧ u8 d 1 = (if s.core.ts.valid = true then 1 else 0)
          ∧ u16 d 2 = s.nv.generation.toNat ∧ u8 d 4 = s.nv.selector.code ∧ u8 d 5 = s.core.ts.compile.code
          ∧ u8 d 6 = (match s.core.ts.last with
              | some r => r.code
              | none => 255)
          ∧ u8 d 7 = (if s.core.ts.lock = true then 1 else 0) ∧ u8 d 8 = (if s.core.ic.alert = true then 1 else 0)
          ∧ u8 d 9 = s.core.ic.table.length ∧ u8 d 10 = s.core.ds.slots.length
          ∧ u8 d 11 = s.core.log.notices.length ∧ u32 d 12 = s.core.log.time.toNat
          ∧ u16 d 16 = s.ring.badFrame.toNat ∧ u16 d 18 = s.ring.overflow.toNat ∧ u16 d 20 = s.ring.refusedSource.toNat
          ∧ u16 d 22 = s.core.log.lost.toNat ∧ u16 d 24 = s.core.ts.corrections.toNat
          ∧ u8 d 26 = (if s.ring.east.up = true then 1 else 0) ∧ u8 d 27 = (if s.ring.west.up = true then 1 else 0)
          ∧ ∀ e, e < 16 →
              (∀ i, s.core.ic.table.at? e = some i → u8 d (28 + 2 * e) = i.number ∧ u8 d (29 + 2 * e) = i.state.code)
              ∧ (s.core.ic.table.at? e = none → u8 d (28 + 2 * e) = 0 ∧ u8 d (29 + 2 * e) = 0))

/-- READ SETTINGS is answered DONE with the ten settings in setting-number order and changes nothing; with arguments it is answered
BAD_REQUEST. -/
def Obligations.ReadSettingsReportsTheRecord : Prop :=
  ∀ (q : Request) (s : State), TakenNow q s →
    (q.args ≠ [] → Refuses (.readSettings q) q 0x02 s .badRequest)
    ∧ (q.args = [] → Answers (.readSettings q) q 0x02 s .done
        (put16 s.nv.settings.partAddress ++ put16 s.nv.settings.primary ++ put16 s.nv.settings.standby
          ++ put16 s.nv.settings.locateWindow ++ put16 s.nv.settings.confirmation ++ put16 s.nv.settings.response
          ++ put16 s.nv.settings.expansionLimit ++ put16 s.nv.settings.outageLimit ++ put16 s.nv.settings.grantOrder
          ++ put16 s.nv.settings.startMode) s.nv (closed s.core))

/-- SET SETTING: the checks of its rule in their order, on the value clamped to the setting's range; a value equal to the stored
one is answered DONE at once, and any other begins the write. That the part address outside HALT is WRONG_MODE whatever the value,
the stored one included, is read from the order of the checks (log 20). -/
def Obligations.SetSettingChecksInOrder : Prop :=
  ∀ (q : Request) (s : State), TakenNow q s →
    (q.args.length ≠ 3 → Refuses (.setSetting q) q 0x03 s .badRequest)
    ∧ (q.args.length = 3 → 9 < u8 q.args 0 → Refuses (.setSetting q) q 0x03 s .badRequest)
    ∧ (q.args.length = 3 → ∀ n v, u8 q.args 0 = n → n ≤ 9 → v = clamped n (u16 q.args 1) →
        (n = 0 ∧ s.core.ic.mode ≠ .halt → Refuses (.setSetting q) q 0x03 s .wrongMode)
        ∧ (¬(n = 0 ∧ s.core.ic.mode ≠ .halt) →
          (AddressClash s.nv.settings n v → Refuses (.setSetting q) q 0x03 s .badRequest)
          ∧ (¬AddressClash s.nv.settings n v →
            (s.nv.settings.list.getD n 0 = v →
              Answers (.setSetting q) q 0x03 s .done (put8 n ++ put16 v) s.nv (closed s.core))
            ∧ (s.nv.settings.list.getD n 0 ≠ v → Begins (.setSetting q) s (.setting n v (origin q 0x03))))))

/-- SETTING_WRITE_DONE and PERSISTENT_HOLD_WRITE_DONE: the value written takes effect and the request is answered DONE; a part
address changed leaves the previous one as the retired address. The answer joins the queue, bound to its request's port, or to the
other where that is DOWN, or is discarded where both are; the held requests are then taken, oldest first. With the answer queue
full the answer waits in hand. Where the handler is not WORKING on such a write nothing changes (log 1). -/
def Obligations.WritesTakeEffectAtTheirEnd : Prop :=
  (∀ (n v : Nat) (o : Origin) (s u : State), s.handler = .working (.setting n v o) → u = { s with
        nv := { s.nv with settings := s.nv.settings.set n v }
        ring := { s.ring with
          retired := if n = 0 then some (BitVec.ofNat 8 s.nv.settings.partAddress) else s.ring.retired } } →
      EndsWith .settingWriteDone o (put8 n ++ put16 v) s u)
    ∧ (∀ (v : Nat) (set : Bool) (o : Origin) (s u : State), s.handler = .working (.hold v set o) → u = { s with
        nv := { s.nv with persistent := if set then s.nv.persistent.put v () else s.nv.persistent.del v } } →
      EndsWith .persistentHoldWriteDone o [] s u)
    ∧ (∀ s : State, (∀ n v o, s.handler ≠ .working (.setting n v o)) → exec .settingWriteDone s = .next (settle s))
    ∧ (∀ s : State, (∀ v b o, s.handler ≠ .working (.hold v b o)) → exec .persistentHoldWriteDone s = .next (settle s))

/-- SET MODE: an unknown code or a wrong length is BAD_REQUEST; the current mode is answered DONE with nothing changed; WATCH or
ADVISE in table state NONE is REFUSED NO_TABLES; any other mode is taken, answered DONE and notified by MODE_CHANGED. -/
def Obligations.SetModeChangesTheMode : Prop :=
  ∀ (q : Request) (s : State), TakenNow q s →
    (q.args.length ≠ 1 → Refuses (.setMode q) q 0x04 s .badRequest)
    ∧ (q.args.length = 1 → 2 < u8 q.args 0 → Refuses (.setMode q) q 0x04 s .badRequest)
    ∧ (q.args.length = 1 → ∀ m : Mode, m.code = u8 q.args 0 →
        (m = s.core.ic.mode → Answers (.setMode q) q 0x04 s .done [] s.nv (closed s.core))
        ∧ (m ≠ s.core.ic.mode → m ≠ .halt → s.core.ts.valid = false →
            Refuses (.setMode q) q 0x04 s (.refused .noTables))
        ∧ (m ≠ s.core.ic.mode → (m = .halt ∨ s.core.ts.valid = true) →
            Answers (.setMode q) q 0x04 s .done [] s.nv
              (notify .modeChanged 0 65535 65535 m.code
                { closed s.core with ic := { s.core.ic with mode := m } })))

/-- ZONE MASK: SET masks and CLEAR unmasks the selected zones, the others keep their marks; the answer carries the whole mask, and
the test for an admission follows. -/
def Obligations.ZoneMaskMarksSelectedZones : Prop :=
  ∀ (q : Request) (s : State), TakenNow q s →
    (q.args.length ≠ 5 → Refuses (.zoneMask q) q 0x05 s .badRequest)
    ∧ (q.args.length = 5 → 1 < u8 q.args 0 → Refuses (.zoneMask q) q 0x05 s .badRequest)
    ∧ (q.args.length = 5 → u8 q.args 0 ≤ 1 → ∃ mask : Word32,
        (∀ z, z < 32 → mask.getLsbD z =
          if (BitVec.ofNat 32 (u32 q.args 1)).getLsbD z then decide (u8 q.args 0 = 1) else s.core.ic.mask.getLsbD z)
        ∧ Answers (.zoneMask q) q 0x05 s .done (put32 mask.toNat) s.nv
            (admission s.nv { closed s.core with ic := { s.core.ic with mask := mask } }))

/-- LOAD WINDOW: BUSY while a compile runs or a swap is pending; BAD_REQUEST for an unknown table, a first index above the last,
or a last index not below the table's size; else the window is opened with the pointer at the first index. -/
def Obligations.LoadWindowOpensTheWindow : Prop :=
  ∀ (q : Request) (s : State), TakenNow q s →
    (q.args.length ≠ 5 → Refuses (.loadWindow q) q 0x10 s .badRequest)
    ∧ (q.args.length = 5 → s.core.ts.compile ≠ .idle → Refuses (.loadWindow q) q 0x10 s .busy)
    ∧ (q.args.length = 5 → s.core.ts.compile = .idle →
        (3 < u8 q.args 0 → Refuses (.loadWindow q) q 0x10 s .badRequest)
        ∧ ∀ t size, (t, size) ∈ [(TableName.segment, 512), (.valve, 1024), (.sensor, 256), (.association, 2048)] →
          t.code = u8 q.args 0 →
          (u16 q.args 3 < u16 q.args 1 ∨ size ≤ u16 q.args 3 → Refuses (.loadWindow q) q 0x10 s .badRequest)
          ∧ (u16 q.args 1 ≤ u16 q.args 3 → u16 q.args 3 < size →
              Answers (.loadWindow q) q 0x10 s .done [] s.nv
                { s.core with ts := { s.core.ts with
                    window := some ⟨t, u16 q.args 1, u16 q.args 3, u16 q.args 1⟩ } }))

/-- The shadow bank after records have been taken into a window from its pointer on: the entries from the pointer on hold them,
absent where the presence flag is clear, and no other entry changes (03 R39). -/
def Loaded (w : LoadWindow) (rs : List Record) (old new : Tables) : Prop :=
  ∀ t i, (new.of t).at? i =
    if t = w.table ∧ w.pointer ≤ i ∧ i < w.pointer + rs.length then
      (rs[i - w.pointer]?).bind fun r => if r.present then some r else none
    else (old.of t).at? i

/-- LOAD DATA and FILL: their refusals in order, none of which closes the window; else the records that fit go into consecutive
entries from the pointer, the rest are discarded, and the answer carries how many and the pointer. -/
def Obligations.LoadingWritesTheShadowBank : Prop :=
  (∀ (q : Request) (s : State), TakenNow q s →
      (s.core.ts.compile ≠ .idle → Answers (.loadData q) q 0x11 s .busy [] s.nv s.core)
      ∧ (s.core.ts.compile = .idle → (u8 q.args 0 < 1 ∨ 20 < u8 q.args 0 ∨ q.args.length ≠ 1 + 12 * u8 q.args 0) →
          Answers (.loadData q) q 0x11 s .badRequest [] s.nv s.core)
      ∧ (s.core.ts.compile = .idle → 1 ≤ u8 q.args 0 → u8 q.args 0 ≤ 20 → q.args.length = 1 + 12 * u8 q.args 0 →
          (s.core.ts.window = none → Answers (.loadData q) q 0x11 s .noWindow [] s.nv s.core)
          ∧ ∀ w n, s.core.ts.window = some w → n = min (u8 q.args 0) (w.last + 1 - w.pointer) → ∃ shadow,
            Loaded w ((recordsOf (q.args.drop 1)).take n) s.core.ts.shadow shadow
            ∧ Answers (.loadData q) q 0x11 s .done
                (put8 n ++ put8 (u8 q.args 0 - n) ++ put16 (w.pointer + n)) s.nv
                { s.core with ts := { s.core.ts with
                    shadow := shadow, window := some { w with pointer := w.pointer + n } } }))
    ∧ ∀ (q : Request) (s : State), TakenNow q s →
      (s.core.ts.compile ≠ .idle → Answers (.fill q) q 0x12 s .busy [] s.nv s.core)
      ∧ (s.core.ts.compile = .idle → (u16 q.args 12 < 1 ∨ 2048 < u16 q.args 12 ∨ q.args.length ≠ 14) →
          Answers (.fill q) q 0x12 s .badRequest [] s.nv s.core)
      ∧ (s.core.ts.compile = .idle → 1 ≤ u16 q.args 12 → u16 q.args 12 ≤ 2048 → q.args.length = 14 →
          (s.core.ts.window = none → Answers (.fill q) q 0x12 s .noWindow [] s.nv s.core)
          ∧ ∀ w n r, s.core.ts.window = some w → n = min (u16 q.args 12) (w.last + 1 - w.pointer) →
            Record.ofBytes (q.args.take 12) = some r → ∃ shadow,
            Loaded w (List.replicate n r) s.core.ts.shadow shadow
            ∧ Answers (.fill q) q 0x12 s .done
                (put16 n ++ put16 (u16 q.args 12 - n) ++ put16 (w.pointer + n)) s.nv
                { s.core with ts := { s.core.ts with
                    shadow := shadow, window := some { w with pointer := w.pointer + n } } })

/-- COPY ACTIVE is BUSY while a compile runs or a swap is pending, and else begins. At COPY_ACTIVE_DONE the shadow bank holds
every entry of the active bank that is present and not POISONED, and nothing else, and the answer carries how many were copied and
how many were POISONED; it joins the queue as at the end of a write, bound to the other port where its own is DOWN, or waits in
hand, and the held requests are then taken. The reads, and the marks and notices they make, fall at that event (log 12), table by
table and in ascending index (log 38); what they bear on is recomputed after the last of them (log 43). COPY_ACTIVE_DONE where no
copy runs has no effect (log 1). -/
def Obligations.CopyActiveFillsTheShadowBank : Prop :=
  (∀ (q : Request) (s : State), TakenNow q s →
      (q.args ≠ [] → Refuses (.copyActive q) q 0x13 s .badRequest)
      ∧ (q.args = [] → s.core.ts.compile ≠ .idle → Refuses (.copyActive q) q 0x13 s .busy)
      ∧ (q.args = [] → s.core.ts.compile = .idle → Begins (.copyActive q) s (.copyActive (origin q 0x13))))
    ∧ (∀ s : State, (∀ o, s.handler ≠ .working (.copyActive o)) → exec .copyActiveDone s = .next (settle s))
    ∧ ∀ (o : Origin) (s : State), s.handler = .working (.copyActive o) → ∃ c copied poisoned,
      EndsWith .copyActiveDone o (put16 copied ++ put16 poisoned) s { s with core := c }
      ∧ (∃ d, d = luUpdate s.nv ([TableName.segment, .valve, .sensor, .association].foldl (fun c t =>
            (presentIn s.nv t c).foldl (fun c i => touchEntry s.nv t i c) c) s.core)
          ∧ c = { d with ts := { d.ts with shadow := c.ts.shadow } })
      ∧ (s.core.ts.valid = false → copied = 0 ∧ poisoned = 0 ∧ c.ts.shadow = ⟨[], [], [], []⟩)
      ∧ (s.core.ts.valid = true → (∀ t i, (c.ts.shadow.of t).at? i =
            if poisonedAt c ⟨t.area, i⟩ then none else (s.nv.active.tables.of t).at? i)
          ∧ copied = ([TableName.segment, .valve, .sensor, .association].map fun t => (c.ts.shadow.of t).length).sum
          ∧ copied + poisoned = ([TableName.segment, .valve, .sensor, .association].map fun t =>
              (s.nv.active.tables.of t).length).sum)
      ∧ c.ts.valid = s.core.ts.valid ∧ c.ts.compile = s.core.ts.compile ∧ c.ts.window = s.core.ts.window
      ∧ c.wu.lastSeq = s.core.wu.lastSeq ∧ c.ic.mode = s.core.ic.mode ∧ c.ic.mask = s.core.ic.mask

/-- COMPILE is answered STARTED where the compile state is IDLE, which becomes COMPILING, the inactive bank being marked INVALID;
BUSY otherwise; BAD_REQUEST with arguments. -/
def Obligations.CompileStarts : Prop :=
  ∀ (q : Request) (s : State), TakenNow q s →
    (q.args ≠ [] → Refuses (.compile q) q 0x14 s .badRequest)
    ∧ (q.args = [] → s.core.ts.compile ≠ .idle → Refuses (.compile q) q 0x14 s .busy)
    ∧ (q.args = [] → s.core.ts.compile = .idle → ∃ nv,
        Answers (.compile q) q 0x14 s .started [] nv
          { s.core with ts := { s.core.ts with window := none, compile := .compiling false } }
        ∧ nv.inactive = { s.nv.inactive with valid := false } ∧ nv.active = s.nv.active
        ∧ nv.selector = s.nv.selector ∧ nv.generation = s.nv.generation ∧ nv.persistent = s.nv.persistent
        ∧ nv.settings = s.nv.settings)

/-- The fields of a record as its 12 bytes give them, read as a record of each table (09 R190). -/
def RecordReads (bs : List Byte) (r : Record) : Prop :=
  (r.present = true ↔ u8 bs 0 % 2 = 1)
    ∧ (r.segment.zone = u8 bs 1 ∧ r.segment.cls = u8 bs 2 ∧ (r.segment.source = true ↔ u8 bs 3 % 2 = 1)
      ∧ (r.segment.protect = true ↔ u8 bs 3 / 2 % 2 = 1) ∧ r.segment.sMin = u16 bs 4)
    ∧ (r.valve.sideA = u16 bs 1 ∧ r.valve.sideB = u16 bs 3 ∧ r.valve.station = u8 bs 5 ∧ r.valve.channel = u8 bs 6
      ∧ r.valve.stroke = u16 bs 7 ∧ r.valve.rank = u8 bs 9 ∧ r.valve.surge = u8 bs 10 ∧ r.valve.normal = u8 bs 11)
    ∧ (r.sensor.station = u8 bs 1 ∧ r.sensor.channel = u8 bs 2 ∧ r.sensor.kind = u8 bs 3 ∧ r.sensor.home = u16 bs 4
      ∧ r.sensor.shift = u8 bs 6 ∧ r.sensor.threshold = u16 bs 7 ∧ r.sensor.persistence = u8 bs 9
      ∧ r.sensor.timeout = u16 bs 10)
    ∧ r.association.sensor = u8 bs 1 ∧ r.association.segment = u16 bs 2 ∧ r.association.weight = u8 bs 4

/-- A record holds a field outside its range (03 R48, pass 1). -/
def FieldBad : TableName → Record → Prop
  | .segment, r => 31 < r.segment.zone ∨ 3 < r.segment.cls ∨ r.segment.sMin = 0
  | .valve, r => 511 < r.valve.sideA ∨ (511 < r.valve.sideB ∧ r.valve.sideB ≠ 65535) ∨ r.valve.station = 0
      ∨ 250 < r.valve.station ∨ 15 < r.valve.channel ∨ r.valve.stroke < 10 ∨ 1800 < r.valve.stroke ∨ 7 < r.valve.rank
      ∨ 63 < r.valve.surge ∨ 1 < r.valve.normal
  | .sensor, r => r.sensor.station = 0 ∨ 250 < r.sensor.station ∨ 7 < r.sensor.channel ∨ 1 < r.sensor.kind
      ∨ 511 < r.sensor.home ∨ r.sensor.shift = 0 ∨ 8 < r.sensor.shift ∨ r.sensor.threshold = 0
      ∨ 4095 < r.sensor.threshold ∨ r.sensor.persistence = 0 ∨ 32 < r.sensor.persistence ∨ r.sensor.timeout < 5
      ∨ 600 < r.sensor.timeout
  | .association, r => 511 < r.association.segment ∨ r.association.weight = 0 ∨ 15 < r.association.weight

/-- A segment is named by more than 16 of a table's present entries (03 R48, passes 5 and 6). -/
def Crowded (m : Sparse Record) (names : Record → Bool) : Prop := 16 < (m.filter fun p => names p.2).length

/-- A pass finds its condition at a present entry (03 R48). -/
def PassFinds (t : Tables) : Nat → TableName → Nat → Record → Prop
  | 1, n, _, r => FieldBad n r
  | 2, .valve, _, r => r.valve.sideA = r.valve.sideB ∨ t.segments.at? r.valve.sideA = none
      ∨ (r.valve.sideB ≠ 65535 ∧ t.segments.at? r.valve.sideB = none)
  | 3, .sensor, _, r => t.segments.at? r.sensor.home = none
  | 3, .association, _, r => t.sensors.at? r.association.sensor = none ∨ t.segments.at? r.association.segment = none
  | 4, .valve, i, r => ∃ j q, j < i ∧ t.valves.at? j = some q ∧ q.valve.station = r.valve.station
      ∧ q.valve.channel = r.valve.channel
  | 4, .sensor, i, r => ∃ j q, j < i ∧ t.sensors.at? j = some q ∧ q.sensor.station = r.sensor.station
      ∧ q.sensor.channel = r.sensor.channel
  | 4, .association, i, r => ∃ j q, j < i ∧ t.associations.at? j = some q
      ∧ (∀ k, j < k → k < i → t.associations.at? k = none)
      ∧ ¬(q.association.sensor < r.association.sensor
          ∨ (q.association.sensor = r.association.sensor ∧ q.association.segment < r.association.segment))
  | 5, .segment, i, _ => Crowded t.valves fun q => q.valve.sideA == i || q.valve.sideB == i
  | 6, .segment, i, _ => Crowded t.associations fun q => q.association.segment == i
  | _, _, _, _ => False

/-- The result a pass gives (03 R48). -/
def passResult : Nat → CompileResult
  | 1 => .badField
  | 2 => .badEndpoint
  | 3 => .badReference
  | 4 => .duplicate
  | 5 => .boundaryOverflow
  | _ => .assocOverflow

/-- One pass, table and entry come no later than another (03 R48). -/
def NoLater (n : Nat) (a : TableName) (i m : Nat) (b : TableName) (j : Nat) : Prop :=
  n < m ∨ (n = m ∧ (a.code < b.code ∨ (a = b ∧ i ≤ j)))

/-- COMPILE_ERROR_END: a compile whose checks find an error, or whose writing fails, becomes IDLE with that result and queues
COMPILE_DONE with the result, the table and the entry; banks, selector word, table state and condition map are unchanged: that a
failed write leaves nothing in the inactive bank is log 11, and what could not be written is an operand (log 29). The first
condition that the seven passes find, by pass, table and index, is the one reported. Where no compile runs, or nothing is wrong,
no error ends it (log 1). The scores are brought up to date at the event's end (log 43). A record is 12 bytes, and its fields
stand in them as the formats of chapter 9 give them, the presence flag the lowest bit of byte 0; records follow one another 12
bytes apart. -/
def Obligations.CompileErrorsAreReported : Prop :=
  (∀ (w : Option Unwritten) (s : State), s.core.ts.compile ≠ .compiling false →
      exec (.compileErrorEnd w) s = .next (ended s.nv s.core s))
    ∧ (∀ s : State, compileCheck s.core.ts.shadow = none →
      exec (.compileErrorEnd none) s = .next (ended s.nv s.core s))
    ∧ (∀ (w : Option Unwritten) (s : State) (result : CompileResult) (entry : Option (TableName × Nat)),
      s.core.ts.compile = .compiling false →
      (compileCheck s.core.ts.shadow = some (result, entry)
        ∨ (compileCheck s.core.ts.shadow = none ∧ result = .writeFailed
            ∧ ((w = some .indexRecord ∧ entry = none) ∨ ∃ t i, w = some (.entry t i) ∧ entry = some (t, i)))) →
      ∃ v g n, exec (.compileErrorEnd w) s = .next (ended s.nv (notify .compileDone 0 v g (result.code + 16 * n)
          { s.core with ts := { s.core.ts with compile := .idle, last := some result } }) s)
        ∧ (entry = none → v = 65535 ∧ g = 65535 ∧ n = 0)
        ∧ (∀ i, entry = some (.segment, i) → v = 65535 ∧ g = i ∧ n = 0)
        ∧ (∀ i, entry = some (.valve, i) → v = i ∧ g = 65535 ∧ n = 1)
        ∧ (∀ i, entry = some (.sensor, i) → v = i ∧ g = 65535 ∧ n = 2)
        ∧ (∀ i, entry = some (.association, i) → v = i ∧ g = 65535 ∧ n = 3))
    ∧ (∀ bs : List Byte, bs.length = 12 → ∃ r, Record.ofBytes bs = some r ∧ r.bytes = bs ∧ RecordReads bs r
      ∧ ∀ rest, recordsOf (bs ++ rest) = r :: recordsOf rest)
    ∧ (∀ bs : List Byte, (bs.length ≠ 12 → Record.ofBytes bs = none) ∧ (bs.length < 12 → recordsOf bs = []))
    ∧ ∀ t : Tables, TablesCanonical t →
      (∀ n a i r, (t.of a).at? i = some r → PassFinds t n a i r →
        (∀ m b j q, (t.of b).at? j = some q → PassFinds t m b j q → NoLater n a i m b j) →
        compileCheck t = some (passResult n, some (a, i)))
      ∧ ((∀ n a i r, (t.of a).at? i = some r → ¬PassFinds t n a i r) →
        ((∀ i r, t.segments.at? i = some r → r.segment.source = false) → compileCheck t = some (.noSource, none))
        ∧ (∀ i r, t.segments.at? i = some r → r.segment.source = true → compileCheck t = none))

/-- The sides of a closure-list valve in the active bank: its entry's, or, where that is POISONED, those that the first sound
boundary list of the isolation set naming it gives (03 R52). -/
def sidesInActive (nv : Nv) (c : Core) (i : Incident) (v : Nat) : Option (Nat × Nat) :=
  match seen nv .valve v c with
  | .value r => some (r.valve.sideA, r.valve.sideB)
  | .poisoned => i.isolation.findSome? fun g =>
      if indexPoisoned .segmentIndex g c then none
      else ((boundaryList nv g c).find? fun p => p.1 == v).map fun p => (g, p.2)
  | .absent => none

/-- Whether a closure-list valve passes the conflict check: present in the new bank, joining the same two sides in either order
(03 R52). -/
def valvePasses (new : Tables) (v : Nat) (sides : Option (Nat × Nat)) : Bool :=
  match new.valves.at? v, sides with
  | some r, some (a, b) => (r.valve.sideA == a && r.valve.sideB == b) || (r.valve.sideA == b && r.valve.sideB == a)
  | _, _ => false

/-- What an incident fails the conflict check for, its valves before its segments (03 R52). -/
def conflictOf (nv : Nv) (new : Tables) (c : Core) (i : Incident) : Option (Nat × TableName × Nat) :=
  match i.closure.find? fun e => !valvePasses new e.valve (sidesInActive nv c i e.valve) with
  | some e => some (i.number, .valve, e.valve)
  | none => (i.isolation.find? fun g => (new.segments.at? g).isNone).map fun g => (i.number, .segment, g)

/-- The blocks once a swap is abandoned, on those the check's reads left, their marks kept (log 34): the first failure's
COMPILE_DONE(CONFLICT) is queued, with its incident (03 R50, R52). -/
def conflicted (nv : Nv) (n : Nat) (t : TableName) (i : Nat) (c : Core) : Core :=
  admission nv (luUpdate nv (notify .compileDone n (if t = .segment then 65535 else i) (if t = .segment then i else 65535)
    (7 + 16 * t.code) { c with ts := { c.ts with compile := .idle, last := some .conflict } }))

/-- COMPILE_WRITE_DONE: the inactive bank holds the shadow tables and is VALID; the swap waits for a start-up check or a running
plan, and is else taken. The conflict check takes the live incidents by raise order, the valves of each before its segments,
comparing the new bank's records as stored (log 37); each valve's entry is read by 02 R29, and where it is POISONED the index
records of the isolation set, in joining order, up to the first sound list that names the valve (log 38); no sides, or an absent
entry (log 26), fail it. The first failure ends the check, selector and generation stay, the marks and TABLE_ERRORs of its reads
too (both deduced: log 34, for R52 says the condition map is unchanged there), and COMPILE_DONE(CONFLICT) names it, the scores
brought up to date behind it (log 43). With none, selector and generation change together, the table state is VALID, every place
SOUND and the last result OK; COMPILE_DONE(OK) and SWAP_DONE are queued, and what follows begins a part of the event behind them
(log 15); inhibition is re-derived for every channel, ascending (log 38), each valve on no live closure list is reset, every
segment is recomputed, after all channels (log 43), and the grants come before the next admission (log 41). Where no compile runs,
or its checks find an error, it does nothing (log 1). -/
def Obligations.CompilesEndInASwap : Prop :=
  (∀ s : State, s.core.ts.compile ≠ .compiling false ∨ compileCheck s.core.ts.shadow ≠ none →
      exec .compileWriteDone s = .next (ended s.nv s.core s))
    ∧ (∀ (s : State) (nv : Nv), s.core.ts.compile = .compiling false → compileCheck s.core.ts.shadow = none →
      nv = s.nv.setInactive ⟨s.core.ts.shadow, [], true⟩ →
      (s.core.ts.checking = true → exec .compileWriteDone s =
        .next (ended nv { s.core with ts := { s.core.ts with compile := .compiling true } } s))
      ∧ (s.core.ts.checking = false → s.core.ip.engine ≠ .idle → exec .compileWriteDone s =
        .next (ended nv { s.core with ts := { s.core.ts with compile := .swapPending } } s))
      ∧ (s.core.ts.checking = false → s.core.ip.engine = .idle → ∃ t, exec .compileWriteDone s = .next t
        ∧ t.core.ts.compile = .idle ∧ t.core.ts.dynamic = s.core.ts.dynamic ∧ t.core.wu.lastSeq = s.core.wu.lastSeq
        ∧ t.handler = s.handler ∧ t.nv.settings = s.nv.settings ∧ t.nv.persistent = s.nv.persistent
        ∧ ((firstConflict nv s.core.ts.shadow (byOrder (live s.core)) s.core).1 = none →
            t.nv = { nv with selector := s.nv.selector.other
                             generation := if s.nv.generation = 65535 then 1 else s.nv.generation + 1 }
            ∧ t.core.ts.valid = true ∧ t.core.ts.last = some .ok)
        ∧ ((firstConflict nv s.core.ts.shadow (byOrder (live s.core)) s.core).1 ≠ none →
            t.nv = nv ∧ t.core.ts.valid = s.core.ts.valid ∧ t.core.ts.last = some .conflict)
        ∧ (∀ d swapped, firstConflict nv s.core.ts.shadow (byOrder (live s.core)) s.core = (none, d) →
            swapped = { nv with selector := s.nv.selector.other
                                generation := if s.nv.generation = 65535 then 1 else s.nv.generation + 1 } →
            t = ended swapped (completeSwap swapped d) s)
        ∧ ∀ d n k i, firstConflict nv s.core.ts.shadow (byOrder (live s.core)) s.core = (some (n, k, i), d) →
            t = ended nv (conflicted nv n k i d) s))
    ∧ (∀ (nv : Nv) (new : Tables) (is : List Incident) (c : Core), NothingToFind nv c →
        firstConflict nv new is c = (is.findSome? (conflictOf nv new c), c))
    ∧ (∀ (nv : Nv) (new : Tables) (i : Incident) (is : List Incident) (c d : Core), firstConflict nv new [] c = (none, c)
      ∧ (∀ v, failingValve nv new i (i.closure.map fun e => e.valve) c = (some v, d) →
          firstConflict nv new (i :: is) c = (some (i.number, .valve, v), d))
      ∧ (failingValve nv new i (i.closure.map fun e => e.valve) c = (none, d) →
        (∀ pre g post, i.isolation = pre ++ g :: post → (∀ h ∈ pre, new.segments.at? h ≠ none) → new.segments.at? g = none →
          firstConflict nv new (i :: is) c = (some (i.number, .segment, g), d))
        ∧ ((∀ g ∈ i.isolation, new.segments.at? g ≠ none) → firstConflict nv new (i :: is) c = firstConflict nv new is d)))
    ∧ (∀ (nv : Nv) (new : Tables) (i : Incident) (v : Nat) (vs : List Nat) (c d : Core) (sides : Option (Nat × Nat)),
      oldSides nv i v c = (sides, d) → failingValve nv new i [] c = (none, c)
        ∧ (valvePasses new v sides = true → failingValve nv new i (v :: vs) c = failingValve nv new i vs d)
        ∧ (valvePasses new v sides = false → failingValve nv new i (v :: vs) c = (some v, d)))
    ∧ (∀ (nv : Nv) (i : Incident) (v : Nat) (c d : Core), d = touchEntry nv .valve v c →
      (∀ r, seen nv .valve v d = .value r → oldSides nv i v c = (some (r.valve.sideA, r.valve.sideB), d))
      ∧ (seen nv .valve v d = .poisoned → oldSides nv i v c = sidesFromLists nv v i.isolation d)
      ∧ (seen nv .valve v d = .absent → oldSides nv i v c = (none, d)))
    ∧ (∀ (nv : Nv) (v g : Nat) (gs : List Nat) (c d : Core), d = touchIndex nv .segmentIndex g c →
      sidesFromLists nv v [] c = (none, c)
      ∧ (indexPoisoned .segmentIndex g d = true ∨ (∀ far, (v, far) ∉ boundaryList nv g d) →
          sidesFromLists nv v (g :: gs) c = sidesFromLists nv v gs d)
      ∧ ∀ far, indexPoisoned .segmentIndex g d = false → (boundaryList nv g d).find? (fun p => p.1 == v) = some (v, far) →
          sidesFromLists nv v (g :: gs) c = (some (g, far), d))
    ∧ (∀ (nv : Nv) (c d e f : Core),
        d = notify .swapDone 0 65535 65535 nv.selector.code (notify .compileDone 0 65535 65535 0
          { c with ts := { c.ts with valid := true, map := [], compile := .idle, last := some .ok } }) →
        e = (List.range 256).foldl (rederive nv) (beginPart d) → f = e.ds.valves.keys.foldl forgetValve e →
        completeSwap nv c = admission nv (arbiter nv (luUpdate nv
          (markDirty (presentIn nv .segment f) { f with lu := { f.lu with scores := [] } }))))
    ∧ (∀ (nv : Nv) (i : Nat) (c e : Core) (home : Option Nat), e = touchEntry nv .sensor i c →
        (∀ r, seen nv .sensor i e = .value r → home = some r.sensor.home) →
        ((∀ r, seen nv .sensor i e ≠ .value r) → home = none) →
        ∀ f, f = setChannel i { channelOf i e with home := home } e →
        ((∃ g, home = some g ∧ covered g e = true) →
          ((channelOf i e).state = .inhibited → rederive nv c i = f)
          ∧ ((channelOf i e).state ≠ .inhibited → rederive nv c i = inhibitChannel nv f i))
        ∧ ((∀ g, home = some g → covered g e = false) →
          ((channelOf i e).state = .inhibited → rederive nv c i = releaseChannel f i)
          ∧ ((channelOf i e).state ≠ .inhibited → rederive nv c i = f)))
    ∧ ∀ (v : Nat) (c : Core),
        ((∃ i ∈ live c, ∃ e ∈ i.closure, e.valve = v) → forgetValve c v = c)
        ∧ ((∀ i ∈ live c, ∀ e ∈ i.closure, e.valve ≠ v) → forgetValve c v =
          setValve v { valveOf v c with position := .unknown, status := .normal, faults := 0 } c)

/-- READ ENTRY: BAD_REQUEST for an unknown bank or table, a count outside 1 to 16 or a last index past the table; BUSY for the
shadow bank while a compile runs or a swap is pending; else each entry's condition and record, POISONED and ABSENT reading zeros.
Only a read of the active bank touches the condition map. What its reads bear on is recomputed after the last of them, before the
answer is formed: the model's choice (log 43). -/
def Obligations.ReadEntryReportsEntries : Prop :=
  ∀ (q : Request) (s : State), TakenNow q s →
    (q.args.length ≠ 5 → Refuses (.readEntry q) q 0x15 s .badRequest)
    ∧ (q.args.length = 5 → (2 < u8 q.args 0 ∨ 3 < u8 q.args 1 ∨ u8 q.args 4 < 1 ∨ 16 < u8 q.args 4) →
        Refuses (.readEntry q) q 0x15 s .badRequest)
    ∧ (q.args.length = 5 → ∀ t : TableName, t.code = u8 q.args 1 → 1 ≤ u8 q.args 4 → u8 q.args 4 ≤ 16 → u8 q.args 0 ≤ 2 →
        (t.size < u16 q.args 2 + u8 q.args 4 → Refuses (.readEntry q) q 0x15 s .badRequest)
        ∧ (u16 q.args 2 + u8 q.args 4 ≤ t.size → ∀ is, is = (List.range (u8 q.args 4)).map (u16 q.args 2 + ·) →
          (u8 q.args 0 = 2 → s.core.ts.compile ≠ .idle → Refuses (.readEntry q) q 0x15 s .busy)
          ∧ (u8 q.args 0 = 2 → s.core.ts.compile = .idle →
              Answers (.readEntry q) q 0x15 s .done
                (q.args ++ is.flatMap fun i =>
                  match (s.core.ts.shadow.of t).at? i with
                  | none => List.replicate 13 0
                  | some r => 1 :: r.bytes) s.nv (closed s.core))
          ∧ (u8 q.args 0 = 1 →
              Answers (.readEntry q) q 0x15 s .done
                (q.args ++ is.flatMap fun i =>
                  if s.nv.inactive.valid = false then List.replicate 13 0
                  else match (s.nv.inactive.tables.of t).at? i with
                    | none => List.replicate 13 0
                    | some r =>
                      if s.nv.inactive.wrongAt ⟨t.area, i⟩ = some .two then 2 :: List.replicate 12 0
                      else 1 :: r.bytes) s.nv (closed s.core))
          ∧ (u8 q.args 0 = 0 → ∃ c,
              c = luUpdate s.nv (is.foldl (fun c i => touchEntry s.nv t i c) (closed s.core))
              ∧ Answers (.readEntry q) q 0x15 s .done
                (q.args ++ is.flatMap fun i =>
                  match seen s.nv t i c with
                  | .absent => List.replicate 13 0
                  | .poisoned => 2 :: List.replicate 12 0
                  | .value r => 1 :: r.bytes) s.nv c)))

/-- RAISE: its checks in their order, the segment's entry and then its index record being read for the presence check (log 38),
and what they bear on recomputed before it (log 43); else an incident is raised on the segment with cause MANUAL and the answer
carries its number and its state once the event is over (log 32). A raising takes a free entry (which: log 14) and the first free
number, fills in the record, inhibits the segment's channels, attributes the TRIPPED channels of its association list in order,
brings the scores up to date (log 43), reports PENDING and tests for an admission. The channels inhibited are those whose recorded
home is the segment and which are not INHIBITED already, ascending (log 38). -/
def Obligations.RaiseChecksAndRaises : Prop :=
  (∀ (q : Request) (s : State) (g : Nat) (c : Core), TakenNow q s → g = u16 q.args 0 →
    c = luUpdate s.nv (touchIndex s.nv .segmentIndex g (touchEntry s.nv .segment g (closed s.core))) →
    (q.args.length ≠ 2 → Refuses (.raise q) q 0x20 s .badRequest)
    ∧ (q.args.length = 2 →
      (511 < g → Refuses (.raise q) q 0x20 s .badRequest)
      ∧ (g ≤ 511 → s.core.ic.mode = .halt → Refuses (.raise q) q 0x20 s .wrongMode)
      ∧ (g ≤ 511 → s.core.ic.mode ≠ .halt →
        ((∀ r, seen s.nv .segment g c ≠ .value r) ∨ indexPoisoned .segmentIndex g c = true →
            Answers (.raise q) q 0x20 s .notFound [] s.nv c)
        ∧ ∀ r, seen s.nv .segment g c = .value r → indexPoisoned .segmentIndex g c = false →
          (covered g c = true → Answers (.raise q) q 0x20 s (.refused .covered) [] s.nv c)
          ∧ (covered g c = false → freeEntries c = [] → Answers (.raise q) q 0x20 s (.refused .full) [] s.nv c)
          ∧ (covered g c = false → freeEntries c ≠ [] → ∃ c' state,
              c' = luUpdate s.nv (raiseIncident s.nv g r.segment .manual (scoreOf g c) c)
              ∧ state = (match incident? (raiseNumber c) c' with
                  | some i => i.state.code
                  | none => 0)
              ∧ Answers (.raise q) q 0x20 s .done (put8 (raiseNumber c) ++ put8 state) s.nv c'))))
    ∧ (∀ (nv : Nv) (g score : Nat) (r : SegmentRecord) (cause : RaiseCause) (c : Core),
      (freeEntries c = [] → raiseIncident nv g r cause score c = c)
      ∧ (freeEntries c ≠ [] → ∃ e picks d n i, e ∈ freeEntries c ∧ d = renumberOrders c ∧ n = raiseNumber c
          ∧ i = { number := n, state := .pending, burst := g, zone := r.zone, cls := r.cls, cause := cause, score := score
                  order := d.ic.raises + 1, key := 0, isolation := [g], closure := [], passing := [], attributed := []
                  outageCount := 0, outage := [], reopen := [], unverified := false, releaseRequested := false
                  owed := false, consent := ⟨false, false, false⟩, stall := none, generation := 0, timer := none }
          ∧ raiseIncident nv g r cause score c = admission nv (levelAlert (notify .incidentState n 65535 g 1
              (luUpdate nv (attributeWitnesses nv n g (inhibitSegment nv { d with ic := { d.ic with
                table := d.ic.table.put e i, nextNumber := if n = 255 then 1 else n + 1, raises := d.ic.raises + 1
                picks := picks } } g)))))))
    ∧ (∀ c : Core, 1 ≤ c.ic.nextNumber → c.ic.nextNumber ≤ 255 → (live c).length ≤ 16 →
      incident? (raiseNumber c) c = none ∧ ∃ k, k < 255 ∧ raiseNumber c = (c.ic.nextNumber - 1 + k) % 255 + 1
        ∧ ∀ j, j < k → incident? ((c.ic.nextNumber - 1 + j) % 255 + 1) c ≠ none)
    ∧ (∀ c : Core, (c.ic.raises < 4294967295 → renumberOrders c = c)
      ∧ (4294967295 ≤ c.ic.raises → (renumberOrders c).ic.raises = c.ic.table.length
        ∧ ∀ rank : Nat → Nat, (∀ o, rank o = ((live c).filter fun i => i.order < o).length + 1) →
          live (renumberOrders c) = (live c).map (fun i => { i with order := rank i.order })
          ∧ (renumberOrders c).ip.queue = c.ip.queue.map rank
          ∧ ∀ o kind w, c.ip.engine = .running o kind w → (renumberOrders c).ip.engine =
              .running (if (live c).any (fun i => i.order == o) then rank o else 0) kind w))
    ∧ (∀ (nv : Nv) (n g : Nat) (c d : Core), d = touchIndex nv .segmentIndex g c →
      (indexPoisoned .segmentIndex g d = true ∨ d.ts.valid = false → attributeWitnesses nv n g c = d)
      ∧ (indexPoisoned .segmentIndex g d = false → d.ts.valid = true → attributeWitnesses nv n g c =
          (nv.active.tables.associationList g).foldl (nameWitness nv n g) d))
    ∧ (∀ (nv : Nv) (n g a : Nat) (c d : Core), d = touchEntry nv .association a c →
      ((∀ r, seen nv .association a d ≠ .value r) → nameWitness nv n g c a = d)
      ∧ ∀ r i e, seen nv .association a d = .value r → i = r.association.sensor → e = touchEntry nv .sensor i d →
        (seen nv .sensor i e = .poisoned ∨ indexPoisoned .sensorIndex i e = true ∨ (channelOf i e).home = some g
            ∨ (channelOf i e).state ≠ .tripped → nameWitness nv n g c a = e)
        ∧ (seen nv .sensor i e ≠ .poisoned → indexPoisoned .sensorIndex i e = false → (channelOf i e).home ≠ some g →
            (channelOf i e).state = .tripped → nameWitness nv n g c a = touchRun nv i
              (changeIncident n (fun x => { x with attributed := x.attributed ++ [i] })
                (setChannel i { channelOf i e with state := .attributed, incident := some n } e))))
    ∧ (∀ (nv : Nv) (i : Nat) (c : Core) (ch : Channel) (d : Core), ch = channelOf i c →
      d = setChannel i { ch with state := .inhibited, persistence := 0, release := 0, timer := none, incident := none } c →
      (∀ n, ch.state = .attributed → ch.incident = some n → inhibitChannel nv c i = leaveList n i .inhibited d)
      ∧ (ch.state = .tripped → inhibitChannel nv c i = touchRun nv i d)
      ∧ (ch.state ≠ .attributed → ch.state ≠ .tripped → inhibitChannel nv c i = d))
    ∧ (∀ (nv : Nv) (g : Nat) (c : Core), c.wu.channels.wfD .reset = true → ∃ is : List Nat,
        (∀ i, i ∈ is ↔ (channelOf i c).home = some g ∧ (channelOf i c).state ≠ .inhibited) ∧ is.Pairwise (· < ·)
        ∧ inhibitSegment nv c g = is.foldl (inhibitChannel nv) c)
    ∧ ∀ (i j : Nat) (ch : Channel) (c : Core), channelOf j (setChannel i ch c) = if j = i then ch else channelOf j c

/-- What the incident requests that restore do to an incident: it becomes RESTORING, and the arbiter runs where a closure entry
became SKIPPED or a reopen list was built that is not empty (06 R120, R121; 08 R157). -/
def Restored (nv : Nv) (i : Incident) (c d : Core) : Prop :=
  ∃ e, e = enterRestoring nv i.number c
    ∧ (((∃ x ∈ i.closure, x.progress = .queued) ∨ (∃ y, incident? i.number e = some y ∧ y.reopen ≠ [])) →
        d = arbiter nv e)
    ∧ ((∀ x ∈ i.closure, x.progress ≠ .queued) → (∀ y, incident? i.number e = some y → y.reopen = []) → d = e)

/-- What the incident request of a row comes to where its incident is live and in a state that takes it: the scores are brought up
to date once the request has had its effect (log 43), and the answer DONE carries the number and the incident's state once the
event has had its effect, 0 where it has ENDed, be its number in use again by an incident that the ending's reruns have raised (06
R103; log 32). -/
def TakenForIncident (i : Instr) (q : Request) (kind : Byte) (s : State) (n : Nat) (effect : Core) : Prop :=
  ∃ c state, c = luUpdate s.nv effect
    ∧ state = (match incident? n c with
        | some i => if (i.state = .pending ∨ i.state = .planning) ∧ i.releaseRequested = false then 0 else i.state.code
        | none => 0)
    ∧ Answers i q kind s .done (put8 n ++ put8 state) s.nv c

/-- What every incident request but RELEASE answers to a wrong length and to a number no live incident holds (06 R103). -/
def NeedsItsIncident (i : Instr) (q : Request) (kind : Byte) (n : Nat) (s : State) : Prop :=
  (q.args.length ≠ n → Refuses i q kind s .badRequest)
    ∧ (q.args.length = n → incident? (u8 q.args 0) s.core = none → Refuses i q kind s .notFound)

/-- CONSENT and REFUSE are taken in AWAITING_CONSENT alone. CONSENT makes the incident ISOLATING, queues the replan that was owed,
tests for completion and runs the arbiter, in the order of log 18. REFUSE ends an incident no DRIVE was issued for, its claims
given up, and else makes it RESTORING. The answer's state is that of the end of the event (log 32), where the scores are brought
up to date (log 43). -/
def Obligations.ConsentAndRefuse : Prop :=
  ∀ (q : Request) (s : State), TakenNow q s →
    NeedsItsIncident (.consent q) q 0x21 1 s ∧ NeedsItsIncident (.refuse q) q 0x22 1 s
    ∧ (q.args.length = 1 → ∀ n i, n = u8 q.args 0 → incident? n s.core = some i →
      (i.state ≠ .awaitingConsent → Refuses (.consent q) q 0x21 s (.refused .state)
        ∧ Refuses (.refuse q) q 0x22 s (.refused .state))
      ∧ (i.state = .awaitingConsent → ∀ c, c = changeState n .isolating
            (changeIncident n (fun x => { x with owed := false }) (closed s.core)) →
          (i.owed = false → TakenForIncident (.consent q) q 0x21 s n (arbiter s.nv (completionTest s.nv n c)))
          ∧ (i.owed = true →
              TakenForIncident (.consent q) q 0x21 s n (arbiter s.nv (completionTest s.nv n (queueReplan s.nv n c)))))
      ∧ (i.state = .awaitingConsent →
          (i.key = 0 → TakenForIncident (.refuse q) q 0x22 s n
            (endIncident s.nv i.number (giveUpClaims i.number (closed s.core))))
          ∧ (i.key ≠ 0 → ∃ d, Restored s.nv i (closed s.core) d ∧ TakenForIncident (.refuse q) q 0x22 s n d)))

/-- SUSPEND is taken in ISOLATING alone and makes the incident SUSPENDING while a motion of it is in flight, else SUSPENDED.
RESUME is taken in those two alone and makes it ISOLATING, with the completion test and a run of the arbiter. The answer's state
is that of the end of the event (log 32), where the scores are brought up to date (log 43). -/
def Obligations.SuspendAndResume : Prop :=
  ∀ (q : Request) (s : State), TakenNow q s →
    NeedsItsIncident (.suspend q) q 0x23 1 s ∧ NeedsItsIncident (.resume q) q 0x24 1 s
    ∧ (q.args.length = 1 → ∀ n i, n = u8 q.args 0 → incident? n s.core = some i →
      (i.state ≠ .isolating → Refuses (.suspend q) q 0x23 s (.refused .state))
      ∧ (i.state = .isolating →
          ((∃ e ∈ s.core.ds.slots, e.2.owner = n) →
            TakenForIncident (.suspend q) q 0x23 s n (changeState n .suspending (closed s.core)))
          ∧ ((∀ e ∈ s.core.ds.slots, e.2.owner ≠ n) →
            TakenForIncident (.suspend q) q 0x23 s n (changeState n .suspended (closed s.core))))
      ∧ (i.state ≠ .suspending → i.state ≠ .suspended → Refuses (.resume q) q 0x24 s (.refused .state))
      ∧ (i.state = .suspending ∨ i.state = .suspended → TakenForIncident (.resume q) q 0x24 s n
          (arbiter s.nv (completionTest s.nv n (changeState n .isolating (closed s.core))))))

/-- RELEASE acts by the incident's state: PENDING ends, PLANNING notes the request, AWAITING_CONSENT acts as REFUSE, RESTORING is
refused, any other becomes RESTORING; number 0 names the ISOLATED incident of lowest raise order, and is NOT_FOUND where there is
none. The state the answer carries is that of the end of the event (log 32). RESTORING stops the timer, skips QUEUED entries,
withdraws the replan, gives up the claims and, with no motion in flight, builds the reopen list, by rank and index descending; an
empty list ends the incident. An absent entry counts as POISONED there (log 26). An END frees the entry, returns its channels to
TRIPPED (ascending, log 38), releases the segments no other set holds, in joining order (log 38), brings the scores up to date and
tests those segments (log 43), reports code 0 and reruns the DEFERRED zones, ascending. The channels that return are those
ATTRIBUTED to the incident; those that a segment releases are the INHIBITED ones whose recorded home it is, ascending (log 38),
each QUIET, unseeded and at 0, no other channel changing. The entries of the list, and the reruns, each begin a part of the event,
and so does the ending (log 15). -/
def Obligations.ReleaseByState : Prop :=
  (∀ (q : Request) (s : State), TakenNow q s →
    (q.args.length ≠ 1 → Refuses (.release q) q 0x25 s .badRequest)
    ∧ (q.args.length = 1 → ∀ n, n = u8 q.args 0 →
      (n ≠ 0 → incident? n s.core = none → Refuses (.release q) q 0x25 s .notFound)
      ∧ (n = 0 → (∀ i ∈ live s.core, i.state ≠ .isolated) → Refuses (.release q) q 0x25 s .notFound)
      ∧ (∀ i, (n ≠ 0 ∧ incident? n s.core = some i)
            ∨ (n = 0 ∧ (byOrder ((live s.core).filter fun x => x.state = .isolated)).head? = some i) →
          (i.state = .pending → TakenForIncident (.release q) q 0x25 s i.number
            (endIncident s.nv i.number (closed s.core)))
          ∧ (i.state = .planning → TakenForIncident (.release q) q 0x25 s i.number
            (changeIncident i.number (fun x => { x with releaseRequested := true }) (closed s.core)))
          ∧ (i.state = .awaitingConsent → i.key = 0 → TakenForIncident (.release q) q 0x25 s i.number
            (endIncident s.nv i.number (giveUpClaims i.number (closed s.core))))
          ∧ (i.state = .awaitingConsent → i.key ≠ 0 → ∃ d, Restored s.nv i (closed s.core) d
            ∧ TakenForIncident (.release q) q 0x25 s i.number d)
          ∧ (i.state = .restoring → Refuses (.release q) q 0x25 s (.refused .state))
          ∧ (i.state ∈ [.isolating, .suspending, .suspended, .confirming, .isolated, .unconfirmed, .stalled] →
            ∃ d, Restored s.nv i (closed s.core) d ∧ TakenForIncident (.release q) q 0x25 s i.number d))))
    ∧ (∀ (nv : Nv) (n : Nat) (i : Incident) (c d : Core), incident? n c = some i →
        d = giveUpClaims n (withdrawReplan i.order (changeIncident n (fun x => { x with
          state := .restoring, timer := none, releaseRequested := false, owed := false
          closure := x.closure.map fun e => if e.progress = .queued then { e with progress := .skipped } else e }) c)) →
        ((∃ p ∈ c.ds.slots, p.2.owner = n) → enterRestoring nv n c = reportState n .restoring d)
        ∧ ((∀ p ∈ c.ds.slots, p.2.owner ≠ n) → enterRestoring nv n c =
            startReopen nv n (reopenList nv n d).1 (reportState n .restoring (reopenList nv n d).2)))
    ∧ (∀ (n : Nat) (i : Incident) (c : Core), incident? n c = some i → (i.closure.map fun e => e.valve).Nodup →
        ∀ v, valveOf v (giveUpClaims n c) =
          if v ∈ i.closure.map (fun e => e.valve) then { valveOf v c with claims := (valveOf v c).claims - 1 }
          else valveOf v c)
    ∧ (∀ (nv : Nv) (n : Nat) (vs : List Nat) (e : ClosureEntry) (c d : Core) (x : ValveStatus),
        d = touchEntry nv .valve e.valve (beginPart c) → x = valveOf e.valve d →
        (0 < x.claims ∨ x.position = .opened ∨ (∃ r, seen nv .valve e.valve d = .value r ∧ r.valve.normal = 1) →
          reopenScan nv n (vs, c) e = (vs, d))
        ∧ (x.claims = 0 → x.position ≠ .opened → (∀ r, seen nv .valve e.valve d = .value r → r.valve.normal ≠ 1) →
          (held nv e.valve d = true → reopenScan nv n (vs, c) e = (vs, notify .reopenSkipped n e.valve 65535 1 d))
          ∧ (held nv e.valve d = false →
            (x.status = .failed ∨ (∀ r, seen nv .valve e.valve d ≠ .value r) →
              reopenScan nv n (vs, c) e = (vs, notify .reopenSkipped n e.valve 65535 2 d))
            ∧ (x.status ≠ .failed → ∀ r, seen nv .valve e.valve d = .value r →
              reopenScan nv n (vs, c) e = (vs ++ [e.valve], d)))))
    ∧ (∀ (nv : Nv) (n : Nat) (i : Incident) (c : Core) (x : List Nat × Core), incident? n c = some i →
        x = i.closure.foldl (reopenScan nv n) ([], c) → (reopenList nv n c).2 = x.2 ∧ (reopenList nv n c).1.Perm x.1
          ∧ (reopenList nv n c).1.Pairwise fun a b => rankOr nv 7 b x.2 < rankOr nv 7 a x.2
              ∨ (rankOr nv 7 a x.2 = rankOr nv 7 b x.2 ∧ b ≤ a))
    ∧ (∀ (nv : Nv) (n : Nat) (vs : List Nat) (c : Core), startReopen nv n [] c = endIncident nv n c
        ∧ (vs ≠ [] → startReopen nv n vs c =
            changeIncident n (fun x => { x with reopen := vs.map fun v => ⟨v, .queued⟩ }) c))
    ∧ (∀ (nv : Nv) (n : Nat) (i : Incident) (c r d : Core) (left : List Nat), incident? n c = some i →
        r = removeIncident n (beginPart c) → d = (attributedTo n r).foldl (returnChannel nv) r →
        left = i.isolation.filter (fun g => !covered g d) → endIncident nv n c =
          rerunDeferred nv (levelAlert (notify .incidentState n 65535 i.burst 0
            (left.foldl (testSegment nv) (luUpdate nv (left.foldl releaseSegment d))))))
    ∧ (∀ (n : Nat) (c : Core), live (removeIncident n c) = (live c).filter (fun i => i.number ≠ n)
        ∧ (removeIncident n c).ip.engine = c.ip.engine
        ∧ (removeIncident n c).ip.queue = c.ip.queue.filter fun o => (live c).any fun i => i.number ≠ n && i.order == o)
    ∧ (∀ (nv : Nv) (i : Nat) (c : Core),
        returnChannel nv c i = touchRun nv i (setChannel i { channelOf i c with state := .tripped, incident := none } c)
        ∧ channelOf i (releaseChannel c i) = { channelOf i c with
            state := .quiet, seeded := false, baseline := 0, deviation := 0, persistence := 0, release := 0
            timer := none, incident := none }
        ∧ ∀ j, j ≠ i → channelOf j (releaseChannel c i) = channelOf j c)
    ∧ ∀ (n g : Nat) (c : Core), c.wu.channels.wfD .reset = true →
        (∀ i, i ∈ attributedTo n c ↔ (channelOf i c).state = .attributed ∧ (channelOf i c).incident = some n)
        ∧ (attributedTo n c).Pairwise (· < ·)
        ∧ ∃ is : List Nat, (∀ i, i ∈ is ↔ (channelOf i c).home = some g ∧ (channelOf i c).state = .inhibited)
          ∧ is.Pairwise (· < ·) ∧ releaseSegment c g = is.foldl releaseChannel c

/-- EXPAND: its checks in their order; else the valve joins the passing set, the confirmation timer stops and the incident becomes
ISOLATING with a replan queued. RETRY is taken in STALLED alone and does the same with the stall cause cleared. NOT_FOUND comes
before the valve index check (log 21); the replan is admitted before the completion test and the grants (log 18); the answer's
state is that of the end of the event (log 32), where the scores are brought up to date (log 43). A replan request joins the end
of the queue, or, where its incident has one queued already, leaves the queue as it is; the test for an admission follows it at
once (log 18). A withdrawal takes the incident's request from the queue and leaves a running plan alone. -/
def Obligations.ExpandAndRetry : Prop :=
  ∀ (q : Request) (s : State), TakenNow q s →
    NeedsItsIncident (.expand q) q 0x26 3 s ∧ NeedsItsIncident (.retry q) q 0x27 1 s
    ∧ (q.args.length = 3 → ∀ n v i, n = u8 q.args 0 → v = u16 q.args 1 → incident? n s.core = some i →
      (1023 < v → Refuses (.expand q) q 0x26 s .badRequest)
      ∧ (v ≤ 1023 →
        (i.state ≠ .confirming ∧ i.state ≠ .isolated ∧ i.state ≠ .unconfirmed →
          Refuses (.expand q) q 0x26 s (.refused .state))
        ∧ (i.state = .confirming ∨ i.state = .isolated ∨ i.state = .unconfirmed →
          ((∀ e ∈ i.closure, ¬(e.valve = v ∧ e.role = .boundary)) → Refuses (.expand q) q 0x26 s (.refused .state))
          ∧ ((∃ e ∈ i.closure, e.valve = v ∧ e.role = .boundary) →
            (8 ≤ i.passing.length → Refuses (.expand q) q 0x26 s (.refused .full))
            ∧ (i.passing.length < 8 → TakenForIncident (.expand q) q 0x26 s n
                (arbiter s.nv (completionTest s.nv n (queueReplan s.nv n (changeState n .isolating
                  (changeIncident n (fun x => { x with passing := x.passing ++ [v], timer := none })
                    (closed s.core)))))))))))
    ∧ (q.args.length = 1 → ∀ n i, n = u8 q.args 0 → incident? n s.core = some i →
      (i.state ≠ .stalled → Refuses (.retry q) q 0x27 s (.refused .state))
      ∧ (i.state = .stalled → TakenForIncident (.retry q) q 0x27 s n
          (arbiter s.nv (completionTest s.nv n (queueReplan s.nv n (changeState n .isolating
            (changeIncident n (fun x => { x with stall := none }) (closed s.core))))))))
    ∧ ∀ (nv : Nv) (n o : Nat) (c : Core), queueReplan nv n c = admission nv (joinQueue n c)
      ∧ (incident? n c = none → joinQueue n c = c)
      ∧ (∀ i, incident? n c = some i →
        (i.order ∈ c.ip.queue → joinQueue n c = c)
        ∧ (i.order ∉ c.ip.queue → joinQueue n c = { c with ip := { c.ip with queue := c.ip.queue ++ [i.order] } }))
      ∧ withdrawReplan o c = { c with ip := { c.ip with queue := c.ip.queue.filter (· ≠ o) } }

/-- READ INCIDENT: NOT_FOUND for no live incident, BAD_REQUEST for an unknown part or a first index above 63 for a list; else the
part as it stands, a list's items from the first index, 32 at most. It changes nothing. NOT_FOUND comes before the checks of the
part and the first index (log 21). -/
def Obligations.ReadIncidentReportsTheRecord : Prop :=
  ∀ (q : Request) (s : State), TakenNow q s →
    NeedsItsIncident (.readIncident q) q 0x28 3 s
    ∧ (q.args.length = 3 → ∀ i first, incident? (u8 q.args 0) s.core = some i → first = u8 q.args 2 →
      (3 < u8 q.args 1 → Refuses (.readIncident q) q 0x28 s .badRequest)
      ∧ (u8 q.args 1 = 1 ∨ u8 q.args 1 = 3 → 63 < first → Refuses (.readIncident q) q 0x28 s .badRequest)
      ∧ (u8 q.args 1 = 0 → Answers (.readIncident q) q 0x28 s .done
          (put8 i.number ++ put8 i.state.code ++ put16 i.burst ++ put8 i.zone ++ put8 i.cls ++ put8 i.cause.code
            ++ put16 i.score ++ put32 i.order ++ put32 i.key ++ put8 i.flags ++ put8 i.consent.code
            ++ put8 (stallCode i.stall) ++ put16 i.generation.toNat ++ put32 (i.timer.getD 4294967295)
            ++ put8 i.isolation.length ++ put8 i.closure.length ++ put8 i.passing.length ++ put8 i.attributed.length
            ++ put16 i.outageCount ++ put8 i.reopen.length ++ i.isolation.flatMap put16 ++ i.passing.flatMap put16
            ++ i.attributed.flatMap put8) s.nv (closed s.core))
      ∧ (u8 q.args 1 = 1 → first ≤ 63 → ∀ es, es = (i.closure.drop first).take 32 →
          Answers (.readIncident q) q 0x28 s .done
            (put8 i.number ++ put8 1 ++ put8 first ++ put8 es.length ++ es.flatMap fun e =>
              put16 e.valve ++ put8 e.role.code ++ put8 e.progress.code ++ put8 e.progress.faultCode) s.nv (closed s.core))
      ∧ (u8 q.args 1 = 2 → Answers (.readIncident q) q 0x28 s .done
          (put8 i.number ++ put8 2 ++ put16 i.outageCount ++ put8 i.outage.length ++ i.outage.flatMap put16)
          s.nv (closed s.core))
      ∧ (u8 q.args 1 = 3 → first ≤ 63 → ∀ es, es = (i.reopen.drop first).take 32 →
          Answers (.readIncident q) q 0x28 s .done
            (put8 i.number ++ put8 3 ++ put8 first ++ put8 es.length ++ es.flatMap fun e =>
              put16 e.valve ++ put8 e.progress.code ++ put8 e.progress.faultCode) s.nv (closed s.core)))

/-- SET HOLD: BAD_REQUEST for a valve above 1023 or an unknown kind or action; a dynamic hold changes at once and no other hold
changes; a persistent change is LOCKED while the lock is set, DONE where the hold stands as asked, and else begins its write. HOLD
LOCK sets the lock. -/
def Obligations.HoldsAreSetClearedAndLocked : Prop :=
  (∀ (q : Request) (s : State), TakenNow q s →
      (q.args.length ≠ 4 → Refuses (.setHold q) q 0x30 s .badRequest)
      ∧ (q.args.length = 4 → (1023 < u16 q.args 0 ∨ 1 < u8 q.args 2 ∨ 1 < u8 q.args 3) →
          Refuses (.setHold q) q 0x30 s .badRequest)
      ∧ (q.args.length = 4 → u16 q.args 0 ≤ 1023 → u8 q.args 2 ≤ 1 → u8 q.args 3 ≤ 1 →
        ∀ v set, v = u16 q.args 0 → set = decide (u8 q.args 3 = 1) →
        (u8 q.args 2 = 1 → ∃ dynamic : Sparse Unit, dynamic.has v = set
            ∧ (∀ w, w ≠ v → dynamic.has w = s.core.ts.dynamic.has w)
            ∧ Answers (.setHold q) q 0x30 s .done [] s.nv
                { s.core with ts := { s.core.ts with window := none, dynamic := dynamic } })
        ∧ (u8 q.args 2 = 0 → s.core.ts.lock = true → Refuses (.setHold q) q 0x30 s .locked)
        ∧ (u8 q.args 2 = 0 → s.core.ts.lock = false → s.nv.persistent.has v = set →
            Answers (.setHold q) q 0x30 s .done [] s.nv (closed s.core))
        ∧ (u8 q.args 2 = 0 → s.core.ts.lock = false → s.nv.persistent.has v ≠ set →
            Begins (.setHold q) s (.hold v set (origin q 0x30)))))
    ∧ ∀ (q : Request) (s : State), TakenNow q s →
      (q.args ≠ [] → Refuses (.holdLock q) q 0x31 s .badRequest)
      ∧ (q.args = [] → Answers (.holdLock q) q 0x31 s .done [] s.nv
          { s.core with ts := { s.core.ts with window := none, lock := true } })

/-- CLEAR FAULT makes a FAILED valve NORMAL, its fault count, position, token, last action and claims and every other valve
unchanged, and is REFUSED STATE for any other. READ VALVE is answered DONE with the valve's entry, holds, condition and motion in
flight, byte by byte as the format gives it, and changes nothing. -/
def Obligations.ValveRequests : Prop :=
  (∀ (q : Request) (s : State), TakenNow q s →
      (q.args.length ≠ 2 → Refuses (.clearFault q) q 0x32 s .badRequest)
      ∧ (q.args.length = 2 → ∀ v, v = u16 q.args 0 →
        (1023 < v → Refuses (.clearFault q) q 0x32 s .badRequest)
        ∧ (v ≤ 1023 → (valveOf v s.core).status ≠ .failed → Refuses (.clearFault q) q 0x32 s (.refused .state))
        ∧ (v ≤ 1023 → (valveOf v s.core).status = .failed → ∃ valves,
            (∀ w, valves.atD ValveStatus.reset w =
              if w = v then { valveOf v s.core with status := .normal } else valveOf w s.core)
            ∧ Answers (.clearFault q) q 0x32 s .done [] s.nv
                { closed s.core with ds := { s.core.ds with valves := valves } })))
    ∧ ∀ (q : Request) (s : State), TakenNow q s →
      (q.args.length ≠ 2 → Refuses (.readValve q) q 0x33 s .badRequest)
      ∧ (q.args.length = 2 → ∀ v x, v = u16 q.args 0 → x = valveOf v s.core →
        (1023 < v → Refuses (.readValve q) q 0x33 s .badRequest)
        ∧ (v ≤ 1023 → ∃ d, Answers (.readValve q) q 0x33 s .done d s.nv (closed s.core) ∧ d.length = 25
            ∧ u16 d 0 = v ∧ u8 d 2 = x.position.code ∧ u8 d 3 = x.status.code
            ∧ (x.claims ≤ 255 → u8 d 4 = x.claims) ∧ (x.faults ≤ 255 → u8 d 5 = x.faults)
            ∧ (x.token ≤ 255 → u8 d 6 = x.token)
            ∧ u8 d 7 = (match x.lastAction with
                | none => 0
                | some .close => 1
                | some .reopen => 2)
            ∧ u8 d 8 = (if s.nv.persistent.has v then 1 else 0) ∧ u8 d 9 = (if s.core.ts.dynamic.has v then 1 else 0)
            ∧ u8 d 10 = (match markAt s.core ⟨.valve, v⟩ with
                | none => 0
                | some .corrected => 1
                | some .poisoned => 2)
            ∧ (motionOf v s.core = none → u8 d 11 = 255 ∧ (∀ k, 12 ≤ k → k ≤ 16 → u8 d k = 0)
                ∧ u32 d 17 = 4294967295 ∧ u32 d 21 = 4294967295)
            ∧ (∀ k m, motionOf v s.core = some (k, m) → k ≤ 7 → m.token ≤ 255 → m.owner ≤ 255 →
                u8 d 11 = k ∧ u8 d 12 = m.phase.code ∧ u8 d 13 = m.action.code ∧ u8 d 14 = m.token
                ∧ u8 d 15 = m.owner ∧ u8 d 16 = (if m.reissued then 1 else 0)
                ∧ (m.response.getD 4294967295 ≤ 4294967295 → u32 d 17 = m.response.getD 4294967295)
                ∧ (m.strokeTimer.getD 4294967295 ≤ 4294967295 → u32 d 21 = m.strokeTimer.getD 4294967295))))

/-- READ SENSOR is answered DONE with the channel context, byte by byte as the format gives it, and changes nothing; an index
above 255 or a wrong length is BAD_REQUEST. -/
def Obligations.ReadSensorReportsTheContext : Prop :=
  ∀ (q : Request) (s : State), TakenNow q s →
    (q.args.length ≠ 2 → Refuses (.readSensor q) q 0x34 s .badRequest)
    ∧ (q.args.length = 2 → 255 < u16 q.args 0 → Refuses (.readSensor q) q 0x34 s .badRequest)
    ∧ (q.args.length = 2 → ∀ i ch, i = u16 q.args 0 → i ≤ 255 → ch = channelOf i s.core →
        ∃ d, Answers (.readSensor q) q 0x34 s .done d s.nv (closed s.core) ∧ d.length = 28
          ∧ u16 d 0 = i ∧ u8 d 2 = ch.state.code ∧ u8 d 3 = (if ch.seeded then 1 else 0)
          ∧ (ch.baseline ≤ 1048560 → u32 d 4 = ch.baseline ∧ u16 d 8 = ch.baseline / 16)
          ∧ (ch.deviation ≤ 4095 → u16 d 10 = ch.deviation) ∧ (ch.persistence ≤ 255 → u8 d 12 = ch.persistence)
          ∧ (ch.release ≤ 255 → u8 d 13 = ch.release)
          ∧ (ch.timer.getD 4294967295 ≤ 4294967295 → u32 d 14 = ch.timer.getD 4294967295)
          ∧ (ch.incident.getD 0 ≤ 255 → u8 d 18 = ch.incident.getD 0)
          ∧ (ch.home.getD 65535 ≤ 65535 → u16 d 19 = ch.home.getD 65535)
          ∧ u8 d 21 = (if ch.lastReading.isSome then 1 else 0)
          ∧ (ch.lastReading.getD 0 ≤ 65535 → u16 d 22 = ch.lastReading.getD 0)
          ∧ (ch.lastTime.getD 0 ≤ 4294967295 → u32 d 24 = ch.lastTime.getD 0))

/-! ### Expiries and the end of a plan -/

/-- STALENESS_EXPIRY of a timer that has run out in QUIET, SUSPECT, TRIPPED or ATTRIBUTED makes the channel STALE with both counts
0 and its timer stopped, keeping baseline, deviation, last reading and last station time; no other channel changes; SENSOR_STALE
is queued with the state left, once the scores have been brought up to date (log 43); a TRIPPED channel leaves its scores and an
ATTRIBUTED one its incident's list. With time left, as after a reading that restarted the timer, with the timer stopped, or in any
other state, nothing changes (log 1, log 3). -/
def Obligations.SilentChannelsGoStale : Prop :=
  ∀ (i : Nat) (s : State) (ch st : Channel) (n : Nat), ch = channelOf i s.core →
    st = { ch with state := .stale, persistence := 0, release := 0, timer := none, incident := none } →
    (ch.timer ≠ some 0 ∨ ch.state = .inhibited ∨ ch.state = .stale →
      exec (.stalenessExpiry i) s = .next (ended s.nv s.core s))
    ∧ (ch.timer = some 0 → ch.state ≠ .inhibited → ch.state ≠ .stale →
        ∃ t, exec (.stalenessExpiry i) s = .next t ∧ channelOf i t.core = st
          ∧ ∀ j, j ≠ i → channelOf j t.core = channelOf j s.core)
    ∧ (ch.timer = some 0 → ch.state = .quiet ∨ ch.state = .suspect →
        exec (.stalenessExpiry i) s = .next (ended s.nv (notify .sensorStale 0 i (ch.home.getD 65535) ch.state.code
          (luUpdate s.nv (setChannel i st s.core))) s))
    ∧ (ch.timer = some 0 → ch.state = .tripped →
        exec (.stalenessExpiry i) s = .next (ended s.nv (notify .sensorStale 0 i (ch.home.getD 65535) 2
          (luUpdate s.nv (touchRun s.nv i (setChannel i st s.core)))) s))
    ∧ (ch.timer = some 0 → ch.state = .attributed → ch.incident = some n →
        exec (.stalenessExpiry i) s = .next (ended s.nv (leaveList n i .stale
          (notify .sensorStale n i (ch.home.getD 65535) 3 (luUpdate s.nv (setChannel i st s.core)))) s))

/-- WINDOW_EXPIRY of an OPEN zone whose time has run out (log 3), and each rerun of a DEFERRED zone, ascending, each a part of its
event (log 15), read every present segment, bring the scores up to date by what they found (log 43) and choose, among the zone's
qualifying segments, the one of highest score and lowest index: none queues LOCATE_EMPTY; in HALT it queues BURST_SEEN; with the
table full it queues TABLE_FULL and the zone is DEFERRED; else an incident is raised. The window closes but for DEFERRED, and the
zone is tested once more. A zone not OPEN, or with time left, is left alone (log 1, log 3). A score is the sum over the segment's
associations with a TRIPPED channel of weight times the deviation, held at 1023, no more than 65535; a recomputation reads the
segment's entry and index record, its associations and the entries of the sensors whose channels are TRIPPED. The segments
concerned are recomputed and tested round by round, in the order of log 38; a test opens a CLOSED window where the segment
qualifies. A channel's run is found by reading its sensor's entry and index record, and its segments by reading the run's
associations, ascending (log 38, log 40): the run is every present association from the lowest to the highest that names the
sensor, and a segment's list every present association that names the segment, ascending both. A segment is listed for
recomputation once. -/
def Obligations.WindowExpiryChoosesASegment : Prop :=
  (∀ (z : Nat) (s : State),
      (windowOf z s.core ≠ .opened 0 → exec (.windowExpiry z) s = .next (ended s.nv s.core s))
      ∧ (windowOf z s.core = .opened 0 → exec (.windowExpiry z) s = .next (ended s.nv (chooseIn s.nv z s.core) s)))
    ∧ (∀ (nv : Nv) (c : Core) (zs : List Nat), c.lu.windows.wfD .closed = true → zs.Pairwise (· < ·) →
      (∀ z, z ∈ zs ↔ windowOf z c = .deferred) →
      rerunDeferred nv c = zs.foldl (fun c z => chooseIn nv z (setWindow z .closed (beginPart c))) c)
    ∧ (∀ (nv : Nv) (z : Nat) (b c : Core), TablesCanonical nv.active.tables →
      c = luUpdate nv ((presentIn nv .segment b).foldl (fun c g => touchEntry nv .segment g c) b) →
      (candidates nv z c = [] → chooseIn nv z b =
        testZone nv z (setWindow z .closed (notify .locateEmpty 0 65535 65535 z c)))
      ∧ (∀ g, g ∈ candidates nv z c ↔ ∃ r, seen nv .segment g c = .value r ∧ r.segment.zone = z
          ∧ indexPoisoned .segmentIndex g c = false ∧ covered g c = false ∧ r.segment.sMin ≤ scoreOf g c)
      ∧ ∀ g r, g ∈ candidates nv z c → (∀ h ∈ candidates nv z c, scoreOf h c ≤ scoreOf g c) →
        (∀ h ∈ candidates nv z c, scoreOf h c = scoreOf g c → g ≤ h) → seen nv .segment g c = .value r →
        (b.ic.mode = .halt → chooseIn nv z b =
          testZone nv z (setWindow z .closed (notify .burstSeen 0 65535 g (scoreOf g c / 256) c)))
        ∧ (b.ic.mode ≠ .halt → freeEntries c = [] → chooseIn nv z b =
          notify .tableFull 0 65535 g z (setWindow z .deferred c))
        ∧ (b.ic.mode ≠ .halt → freeEntries c ≠ [] → chooseIn nv z b =
          testZone nv z (setWindow z .closed (raiseIncident nv g r.segment .detected (scoreOf g c) c))))
    ∧ (∀ (nv : Nv) (z : Nat) (c : Core), testZone nv z c =
        ((presentIn nv .segment c).filter fun g => match seen nv .segment g c with
          | .value r => r.segment.zone == z
          | _ => false).foldl (testSegment nv) c)
    ∧ (∀ (nv : Nv) (g : Nat) (c d : Core), d = touchEntry nv .segment g c →
      ((∀ r, seen nv .segment g d ≠ .value r) → testSegment nv c g = d)
      ∧ ∀ r z, seen nv .segment g d = .value r → z = r.segment.zone →
        (windowOf z d = .closed → indexPoisoned .segmentIndex g d = false → covered g d = false →
          r.segment.sMin ≤ scoreOf g d → testSegment nv c g = setWindow z (.opened (nv.settings.locateWindow * 1000)) d)
        ∧ (windowOf z d ≠ .closed ∨ indexPoisoned .segmentIndex g d = true ∨ covered g d = true
            ∨ scoreOf g d < r.segment.sMin → testSegment nv c g = d))
    ∧ (∀ (nv : Nv) (g : Nat) (c d : Core), d = touchSegment nv g c →
      rescore nv g c = setScore g (scoreNow nv g d) d ∧ scoreOf g (rescore nv g c) = scoreNow nv g d
      ∧ ∀ h, h ≠ g → scoreOf h (rescore nv g c) = scoreOf h c)
    ∧ (∀ (nv : Nv) (g : Nat) (c : Core),
      ((∀ r, seen nv .segment g c ≠ .value r) ∨ indexPoisoned .segmentIndex g c = true → scoreNow nv g c = 0)
      ∧ ∀ r, seen nv .segment g c = .value r → indexPoisoned .segmentIndex g c = false →
        scoreNow nv g c = min 65535 ((nv.active.tables.associationList g).map fun a => term nv a c).sum)
    ∧ (∀ (nv : Nv) (a : Nat) (c : Core), ((∀ r, seen nv .association a c ≠ .value r) → term nv a c = 0)
      ∧ ∀ r i, seen nv .association a c = .value r → i = r.association.sensor →
        ((channelOf i c).state ≠ .tripped ∨ seen nv .sensor i c = .poisoned ∨ indexPoisoned .sensorIndex i c = true →
          term nv a c = 0)
        ∧ ((channelOf i c).state = .tripped → seen nv .sensor i c ≠ .poisoned → indexPoisoned .sensorIndex i c = false →
          term nv a c = r.association.weight * min 1023 (channelOf i c).deviation))
    ∧ (∀ (nv : Nv) (g : Nat) (c d : Core), d = touchIndex nv .segmentIndex g (touchEntry nv .segment g c) →
      (indexPoisoned .segmentIndex g d = true → touchSegment nv g c = d)
      ∧ (indexPoisoned .segmentIndex g d = false → touchSegment nv g c =
          (nv.active.tables.associationList g).foldl (touchTerm nv) d))
    ∧ (∀ (nv : Nv) (a : Nat) (c d : Core), d = touchEntry nv .association a c →
      ((∀ r, seen nv .association a d ≠ .value r) → touchTerm nv c a = d)
      ∧ ∀ r i, seen nv .association a d = .value r → i = r.association.sensor →
        ((channelOf i d).state = .tripped → touchTerm nv c a = touchEntry nv .sensor i d)
        ∧ ((channelOf i d).state ≠ .tripped → touchTerm nv c a = d))
    ∧ (∀ (nv : Nv) (i : Nat) (c d : Core), d = touchIndex nv .sensorIndex i (touchEntry nv .sensor i c) →
      ((∀ r, seen nv .sensor i d ≠ .value r) ∨ indexPoisoned .sensorIndex i d = true → touchRun nv i c = d)
      ∧ ∀ r e, seen nv .sensor i d = .value r → indexPoisoned .sensorIndex i d = false →
        e = (nv.active.tables.run i).foldl (fun c p => touchEntry nv .association p.1 c) d →
        touchRun nv i c = markDirty (((nv.active.tables.run i).filter fun p => !poisonedAt e ⟨.association, p.1⟩).map fun p =>
          p.2.association.segment) e)
    ∧ (∀ t : Tables, t.associations.wf = true →
      (∀ g, (∀ a, a ∈ t.associationList g ↔ ∃ r, t.associations.at? a = some r ∧ r.association.segment = g)
        ∧ (t.associationList g).Pairwise (· < ·))
      ∧ ∀ i, (∀ a r, (a, r) ∈ t.run i ↔ t.associations.at? a = some r ∧ (∃ lo q, lo ≤ a ∧ t.associations.at? lo = some q
            ∧ q.association.sensor = i) ∧ ∃ hi q, a ≤ hi ∧ t.associations.at? hi = some q ∧ q.association.sensor = i)
        ∧ (t.run i).Pairwise fun p q => p.1 < q.1)
    ∧ (∀ (g : Nat) (gs : List Nat) (c : Core), markDirty [] c = c
      ∧ (g ∈ c.lu.dirty → markDirty (g :: gs) c = markDirty gs c)
      ∧ (g ∉ c.lu.dirty → markDirty (g :: gs) c = markDirty gs { c with lu := { c.lu with dirty := c.lu.dirty ++ [g] } }))
    ∧ ∀ (nv : Nv) (n : Nat) (c : Core), luUpdate nv c = updateScores nv 4860 c
      ∧ (c.lu.dirty = [] → updateScores nv n c = c)
      ∧ (c.lu.dirty ≠ [] → updateScores nv (n + 1) c = updateScores nv n (c.lu.dirty.foldl
          (fun c g => testSegment nv (rescore nv g c) g) { c with lu := { c.lu with dirty := [] } }))

/-- CONFIRMATION_EXPIRY of a CONFIRMING incident whose time has run out (log 3) makes it UNCONFIRMED with its timer stopped, and
changes nothing for any other (log 1). The scores are brought up to date at the event's end (log 43). -/
def Obligations.ConfirmationCanExpire : Prop :=
  ∀ (n : Nat) (s : State),
    ((∀ i, incident? n s.core = some i → i.state ≠ .confirming ∨ i.timer ≠ some 0) →
      exec (.confirmationExpiry n) s = .next (ended s.nv s.core s))
    ∧ ∀ i, incident? n s.core = some i → i.state = .confirming → i.timer = some 0 →
      exec (.confirmationExpiry n) s = .next (ended s.nv
        (changeState n .unconfirmed (changeIncident n (fun x => { x with timer := none }) s.core)) s)

/-- The incident an admission takes first among the PENDING ones: unmasked zone, lowest class, lowest raise order (07 R130). -/
def FirstPending (c : Core) (i : Incident) : Prop :=
  i ∈ live c ∧ i.state = .pending ∧ c.ic.mask.getLsbD i.zone = false
    ∧ ∀ j ∈ live c, j.state = .pending → c.ic.mask.getLsbD j.zone = false →
        j = i ∨ i.cls < j.cls ∨ (i.cls = j.cls ∧ i.order < j.order)

/-- PLAN_COMPLETION: the engine becomes IDLE; what stands depends on the incident as the completion finds it: ended or RESTORING,
the plan is discarded; PLANNING with the release requested, the incident ENDs; a failure stalls it with its cause; a success is
applied, with its reads made at the completion (log 12), a discarded plan's too (log 28), in the order of log 38, and what they
bear on recomputed after the last (log 43). A pending swap is taken next, after the plan's grants (log 39), as a new part of the
event (log 15), its conflict check reading by 02 R29, the marks kept (log 34); then comes the test for an admission, after the
grants too (log 41). An IDLE engine completes nothing (log 1). An admission needs an IDLE engine and no swap pending: the head of
the queue, else the first PENDING incident. Expansion takes the boundary pass by pass, ascending: an unusable valve, an absent one
among them (log 26), joins its far side, or fails UNBOUNDED, TABLE_ERROR or TOO_LARGE; a list past 64 fails LIST_FULL; the outage
is what the sources do not reach. -/
def Obligations.PlansComplete : Prop :=
  (∀ s : State, s.core.ip.engine = .idle → exec .planCompletion s = .next (ended s.nv s.core s))
    ∧ (∀ (s : State) (o : Nat) (kind : PlanKind) (w : Snapshot) (c d : Core), s.core.ip.engine = .running o kind w →
      c = luUpdate s.nv (computePlan s.nv w s.core).2 →
      d = planStands s.nv o (computePlan s.nv w s.core).1 { c with ip := { c.ip with engine := .idle } } →
      (s.core.ts.compile ≠ .swapPending → exec .planCompletion s = .next (ended s.nv (admission s.nv d) s))
      ∧ (s.core.ts.compile = .swapPending →
        exec .planCompletion s = .next (ended (takeSwap s.nv (beginPart d)).1 (takeSwap s.nv (beginPart d)).2 s)
        ∧ ∃ t, exec .planCompletion s = .next t ∧ t.core.ts.compile = .idle
          ∧ (t.core.ts.last = some .ok ∨ t.core.ts.last = some .conflict)))
    ∧ (∀ (nv swapped : Nv) (c d : Core), swapped = { nv with
          selector := nv.selector.other, generation := if nv.generation = 65535 then 1 else nv.generation + 1 } →
      (firstConflict nv nv.inactive.tables (byOrder (live c)) c = (none, d) →
        takeSwap nv c = (swapped, completeSwap swapped d))
      ∧ ∀ n t i, firstConflict nv nv.inactive.tables (byOrder (live c)) c = (some (n, t, i), d) →
        takeSwap nv c = (nv, conflicted nv n t i d))
    ∧ (∀ (nv : Nv) (c : Core),
      (c.ip.engine ≠ .idle ∨ c.ts.compile = .swapPending → admission nv c = c)
      ∧ (c.ip.engine = .idle → c.ts.compile ≠ .swapPending →
        (∀ o rest i, c.ip.queue = o :: rest → (live c).find? (fun x => x.order == o) = some i →
          admission nv c = startPlan nv i .replan { c with ip := { c.ip with queue := rest } })
        ∧ (c.ip.queue = [] → (∀ i, FirstPending c i → admission nv c = startPlan nv i .first (changeState i.number .planning c))
          ∧ ((∀ i ∈ live c, i.state = .pending → c.ic.mask.getLsbD i.zone = true) → admission nv c = c)))
      ∧ ∀ (i : Incident) (kind : PlanKind) (w : Snapshot),
        w = { isolation := i.isolation, closure := i.closure, passing := i.passing, persistent := nv.persistent
              dynamic := c.ts.dynamic, valves := c.ds.valves, moving := c.ds.slots.map fun p => p.2.valve
              otherSets := ((live c).filter fun x => x.number ≠ i.number).map fun x => x.isolation
              limit := nv.settings.expansionLimit } →
        startPlan nv i kind c = { c with ip := { c.ip with engine := .running i.order kind w } })
    ∧ (∀ (nv : Nv) (w : Snapshot) (c : Core),
      (∀ s x d, expand nv w (w.limit + 2) w.isolation c = (.error x, d) ∨ (expand nv w (w.limit + 2) w.isolation c = (.ok s, d)
          ∧ 64 < w.closure.length + (newValves nv w s d).length ∧ x = .listFull) → computePlan nv w c = (.error x, d))
      ∧ ∀ s d vs outage e, expand nv w (w.limit + 2) w.isolation c = (.ok s, d) → vs = newValves nv w s d →
        w.closure.length + vs.length ≤ 64 → outageOf nv w s (w.closure.map (fun x => x.valve) ++ vs) d = (outage, e) →
        computePlan nv w c = (.ok ⟨s, vs, outage⟩, e))
    ∧ (∀ (nv : Nv) (w : Snapshot) (v : Nat) (c : Core), usable nv w v c = true ↔ (∃ r, seen nv .valve v c = .value r)
        ∧ w.persistent.has v = false ∧ w.dynamic.has v = false ∧ (w.valves.atD .reset v).status ≠ .failed ∧ v ∉ w.passing
        ∧ ∀ e ∈ w.closure, e.valve = v → ∀ cause, e.progress ≠ .faulted cause)
    ∧ (∀ (nv : Nv) (s : List Nat) (c : Core), (∀ v far, (v, far) ∈ boundaryOf nv s c ↔
          (∃ g ∈ s, (v, far) ∈ boundaryList nv g c) ∧ far ∉ s)
      ∧ (boundaryOf nv s c).Pairwise fun a b => a.1 ≤ b.1)
    ∧ (∀ (nv : Nv) (g v far : Nat) (c : Core), nv.active.tables.valves.wf = true →
      ((v, far) ∈ boundaryList nv g c ↔ c.ts.valid = true ∧ ∃ r, nv.active.tables.valves.at? v = some r
        ∧ ((r.valve.sideA = g ∧ r.valve.sideB = far) ∨ (r.valve.sideA ≠ g ∧ r.valve.sideB = g ∧ r.valve.sideA = far))))
    ∧ (∀ (nv : Nv) (w : Snapshot) (k : Nat) (s : List Nat) (c d : Core),
      (readIndexes nv s c = (false, d) → expand nv w (k + 1) s c = (.error .tableError, d))
      ∧ (readIndexes nv s c = (true, d) →
        (∀ x e, examine nv w (boundaryOf nv s d) s d = (.error x, e) → expand nv w (k + 1) s c = (.error x, e))
        ∧ ∀ t e, examine nv w (boundaryOf nv s d) s d = (.ok t, e) →
          (t.length = s.length → expand nv w (k + 1) s c = (.ok s, e))
          ∧ (t.length ≠ s.length → expand nv w (k + 1) s c = expand nv w k t e)))
    ∧ (∀ (nv : Nv) (g : Nat) (gs : List Nat) (c d : Core), d = touchIndex nv .segmentIndex g c →
      readIndexes nv [] c = (true, c) ∧ (indexPoisoned .segmentIndex g d = true → readIndexes nv (g :: gs) c = (false, d))
      ∧ (indexPoisoned .segmentIndex g d = false → readIndexes nv (g :: gs) c = readIndexes nv gs d))
    ∧ (∀ (nv : Nv) (w : Snapshot) (v far : Nat) (rest : List (Nat × Nat)) (s : List Nat) (c d e : Core),
      d = touchEntry nv .valve v c → e = touchIndex nv .segmentIndex far (touchEntry nv .segment far d) →
      examine nv w [] s c = (.ok s, c)
      ∧ (usable nv w v d = true ∨ far ∈ s → examine nv w ((v, far) :: rest) s c = examine nv w rest s d)
      ∧ (usable nv w v d = false → far ∉ s →
        (far = 65535 → examine nv w ((v, far) :: rest) s c = (.error .unbounded, d))
        ∧ (far ≠ 65535 → seen nv .segment far e = .poisoned ∨ indexPoisoned .segmentIndex far e = true →
          examine nv w ((v, far) :: rest) s c = (.error .tableError, e))
        ∧ (far ≠ 65535 → seen nv .segment far e ≠ .poisoned → indexPoisoned .segmentIndex far e = false →
          (w.limit < s.length + 1 → examine nv w ((v, far) :: rest) s c = (.error .tooLarge, e))
          ∧ (s.length + 1 ≤ w.limit → examine nv w ((v, far) :: rest) s c = examine nv w rest (s ++ [far]) e))))
    ∧ (∀ (nv : Nv) (w : Snapshot) (s : List Nat) (c : Core), (∀ v, v ∈ newValves nv w s c ↔
          (∃ far, (v, far) ∈ boundaryOf nv s c) ∧ ∀ e ∈ w.closure, e.valve ≠ v)
      ∧ (newValves nv w s c).Pairwise fun a b =>
          rankOr nv 0 a c < rankOr nv 0 b c ∨ (rankOr nv 0 a c = rankOr nv 0 b c ∧ a ≤ b))
    ∧ (∀ (nv : Nv) (w : Snapshot) (listed : List Nat) (v : Nat) (c : Core), countsClosed nv w listed v c = true ↔
        v ∈ listed ∨ 0 < (w.valves.atD .reset v).claims ∨ (w.valves.atD .reset v).position = .closed
        ∨ ((w.valves.atD .reset v).position = .unknown
          ∧ (seen nv .valve v c = .poisoned ∨ ∃ r, seen nv .valve v c = .value r ∧ r.valve.normal = 1)))
    ∧ (∀ (nv : Nv) (w : Snapshot) (s listed start reached : List Nat) (c d e : Core), reachStart nv w s c = (start, d) →
        reach nv w s listed 513 start start d = (reached, e) →
        outageOf nv w s listed c = ((presentIn nv .segment e).filter fun g => !reached.contains g && !s.contains g, e))
    ∧ (∀ (nv : Nv) (w : Snapshot) (s : List Nat) (c d : Core),
        d = (presentIn nv .segment c).foldl (fun c g => touchEntry nv .segment g c) c → ∃ (gs : List Nat) (e : Core),
        gs.Sublist (presentIn nv .segment c) ∧ (∀ g, g ∈ gs ↔ g ∈ presentIn nv .segment c ∧ g ∉ s
          ∧ (∃ r, seen nv .segment g d = .value r ∧ r.segment.source = true) ∧ ∀ t ∈ w.otherSets, g ∉ t)
        ∧ e = gs.foldl (fun c g => touchIndex nv .segmentIndex g c) d
        ∧ reachStart nv w s c = (gs.filter fun g => !segmentPoisoned nv g e, e))
    ∧ (∀ (nv : Nv) (w : Snapshot) (s listed : List Nat) (k g : Nat) (todo reached : List Nat) (c d e : Core),
      d = touchIndex nv .segmentIndex g c → e = ((boundaryList nv g d).filter fun p =>
          (w.valves.atD .reset p.1).position = .unknown).foldl (fun c p => touchEntry nv .valve p.1 c) d →
      reach nv w s listed k [] reached c = (reached, c)
      ∧ (indexPoisoned .segmentIndex g d = true → reach nv w s listed (k + 1) (g :: todo) reached c =
          reach nv w s listed k todo reached d)
      ∧ (indexPoisoned .segmentIndex g d = false → ∃ hs, hs.Nodup
        ∧ (∀ h, h ∈ hs ↔ h ≠ 65535 ∧ h ∉ s ∧ h ∉ reached
            ∧ ∃ v, (v, h) ∈ boundaryList nv g d ∧ countsClosed nv w listed v e = false)
        ∧ reach nv w s listed (k + 1) (g :: todo) reached c =
            reach nv w s listed k (todo ++ hs) (reached ++ hs) e))
    ∧ (∀ (nv : Nv) (o : Nat) (r : Except StallCause Plan) (c : Core),
      ((∀ i ∈ live c, i.order ≠ o) → planStands nv o r c = c)
      ∧ ∀ i, (live c).find? (fun x => x.order == o) = some i →
        (i.state = .planning → i.releaseRequested = true → planStands nv o r c = endIncident nv i.number c)
        ∧ (i.state = .restoring → planStands nv o r c = c)
        ∧ (¬(i.state = .planning ∧ i.releaseRequested = true) → i.state ≠ .restoring →
          (∀ cause, r = .error cause → planStands nv o r c = changeState i.number .stalled
            (withdrawReplan i.order (changeIncident i.number (fun x => { x with stall := some cause, owed := false }) c)))
          ∧ (∀ p, r = .ok p → planStands nv o r c =
            arbiter nv (planOutcome nv i p ((causesOf nv p c).newOver i.consent) (applyPlan nv i p c)))))
    ∧ (∀ (nv : Nv) (i : Incident) (p : Plan) (c d e : Core) (joining : List Nat) (k : Causes),
      joining = (p.isolation.drop i.isolation.length).filter (fun g => !covered g c) → k = causesOf nv p c →
      d = changeIncident i.number (fun x => { x with
        isolation := p.isolation
        closure := x.closure.map (amendEntry nv p.isolation c) ++ p.valves.map (newEntry c) }) c →
      e = luUpdate nv (joining.foldl (inhibitSegment nv)
        (p.valves.foldl (fun c v => setValve v { valveOf v c with claims := (valveOf v c).claims + 1 } c) d)) →
      applyPlan nv i p c = notify .planReady i.number 65535 i.burst (min 255 p.outage.length)
        (changeIncident i.number (fun x => { x with
          outageCount := p.outage.length, outage := p.outage.take 32, generation := nv.generation
          consent := ⟨x.consent.advise || k.advise, x.consent.protect || k.protect,
            x.consent.outageLimit || k.outageLimit⟩ }) e)
      ∧ (k.advise = true ↔ c.ic.mode = .advise)
      ∧ (k.protect = true ↔ ∃ g, (g ∈ p.isolation ∨ g ∈ p.outage) ∧ (seen nv .segment g c = .poisoned
          ∨ indexPoisoned .segmentIndex g c = true ∨ ∃ r, seen nv .segment g c = .value r ∧ r.segment.protect = true))
      ∧ (k.outageLimit = true ↔ nv.settings.outageLimit < p.outage.length)
      ∧ ∀ old : Causes, k.newOver old = true ↔ (k.advise = true ∧ old.advise = false)
          ∨ (k.protect = true ∧ old.protect = false) ∨ (k.outageLimit = true ∧ old.outageLimit = false))
    ∧ (∀ (nv : Nv) (s : List Nat) (c : Core) (e : ClosureEntry) (v : Nat),
      ((∃ g ∈ s, ∃ far ∈ s, (e.valve, far) ∈ boundaryList nv g c) → amendEntry nv s c e =
        { e with role := .interior, progress := if e.progress = .queued then .skipped else e.progress })
      ∧ ((∀ g ∈ s, ∀ far ∈ s, (e.valve, far) ∉ boundaryList nv g c) → amendEntry nv s c e = e)
      ∧ newEntry c v = ⟨v, .boundary,
          if (valveOf v c).position = .closed ∧ motionOf v c = none then .done else .queued⟩)
    ∧ ∀ (nv : Nv) (i : Incident) (p : Plan) (needs : Bool) (c d : Core),
      ((∃ v ∈ p.valves, ∃ k m, motionOf v c = some (k, m) ∧ m.action = .reopen) → d = joinQueue i.number c) →
      ((∀ v ∈ p.valves, ∀ k m, motionOf v c = some (k, m) → m.action ≠ .reopen) → d = c) →
      ((i.state = .planning ∨ i.state = .isolating ∨ i.state = .suspending ∨ i.state = .suspended) → needs = true →
        planOutcome nv i p needs c = changeState i.number .awaitingConsent d)
      ∧ (i.state = .planning → needs = false →
        planOutcome nv i p needs c = completionTest nv i.number (changeState i.number .isolating d))
      ∧ (i.state = .isolating → needs = false → planOutcome nv i p needs c = completionTest nv i.number d)
      ∧ ((i.state = .suspending ∨ i.state = .suspended) → needs = false → planOutcome nv i p needs c = d)
      ∧ (i.state ≠ .planning → i.state ≠ .isolating → i.state ≠ .suspending → i.state ≠ .suspended →
        planOutcome nv i p needs c = d)

/-- RESPONSE_TIMER_EXPIRY and STROKE_TIMER_EXPIRY. The first expiry of an ISSUED slot issues its drive again with the same token,
or withdraws the motion where the valve is held, its entry POISONED, or a claim stands against a reopening; the second faults it
with NO_RESPONSE; the stroke timer faults it with OVERRUN. A fault makes the slot IDLE and the valve FAILED and raises its fault
count, which stays at 255; a motion that completes or is withdrawn leaves the valve NORMAL; with every slot freed the ports are
told to discard its waiting DRIVE copies. An expiry is taken once its timer has run out (log 3); held, POISONED and claims decide
in that order (log 42), and an entry that is absent counts as POISONED (log 26). Where no such timer has run out nothing changes
(log 1). The scores are brought up to date at the event's end (log 43). An entry that faults, at the end of a motion or at a
grant, becomes FAULTED with its cause; VALVE_FAULT is queued with the owner, the valve, FFFFh and the cause's code, and what
follows begins a part of the event behind it (log 15). The Incident Controller is told of a closure entry: ISOLATING and
SUSPENDING queue a replan, AWAITING_CONSENT sets REPLAN_OWED, any other state does nothing; of a reopen entry it queues none.
After every entry that ends, ISOLATING makes the completion test; with no motion of it left in flight SUSPENDING becomes
SUSPENDED, and RESTORING builds its reopen list, or ends once that holds nothing QUEUED or IN_MOTION; any other state does
nothing. -/
def Obligations.MotionTimersExpire : Prop :=
  (∀ (k : Nat) (s : State),
    ((∀ m, slotOf k s.core = some m → m.phase ≠ .issued ∨ m.response ≠ some 0) →
      exec (.responseTimerExpiry k) s = .next (ended s.nv s.core s))
    ∧ ((∀ m, slotOf k s.core = some m → m.phase ≠ .moving ∨ m.strokeTimer ≠ some 0) →
      exec (.strokeTimerExpiry k) s = .next (ended s.nv s.core s))
    ∧ (∀ m, slotOf k s.core = some m → m.phase = .issued → m.response = some 0 →
      (m.reissued = true → exec (.responseTimerExpiry k) s = .next (ended s.nv (arbiter s.nv
        (faultEntry s.nv m.owner m.valve m.action .noResponse (countFault m.valve (freeSlot k m .failed s.core)))) s))
      ∧ (m.reissued = false → ∀ c, c = touchEntry s.nv .valve m.valve s.core →
        (held s.nv m.valve c = true → exec (.responseTimerExpiry k) s = .next (ended s.nv (arbiter s.nv
          (faultEntry s.nv m.owner m.valve m.action .held (freeSlot k m .normal c))) s))
        ∧ (held s.nv m.valve c = false → (∀ r, seen s.nv .valve m.valve c ≠ .value r) →
          exec (.responseTimerExpiry k) s = .next (ended s.nv (arbiter s.nv
            (faultEntry s.nv m.owner m.valve m.action .unusable (freeSlot k m .normal c))) s))
        ∧ (∀ r, held s.nv m.valve c = false → seen s.nv .valve m.valve c = .value r →
          (m.action = .reopen → 0 < (valveOf m.valve c).claims → exec (.responseTimerExpiry k) s = .next (ended s.nv
            (arbiter s.nv (endEntry s.nv m.owner m.valve m.action .skipped (freeSlot k m .normal c))) s))
          ∧ (m.action = .close ∨ (valveOf m.valve c).claims = 0 → exec (.responseTimerExpiry k) s = .next (ended s.nv
            (handDrive ⟨k, r.valve.station, r.valve.channel, m.action, r.valve.stroke, m.token⟩
              (setSlot k { m with reissued := true, stroke := r.valve.stroke
                                  response := some (s.nv.settings.response * 1000) } c)) s)))))
    ∧ (∀ m, slotOf k s.core = some m → m.phase = .moving → m.strokeTimer = some 0 →
      exec (.strokeTimerExpiry k) s = .next (ended s.nv (arbiter s.nv
        (faultEntry s.nv m.owner m.valve m.action .overrun (countFault m.valve (freeSlot k m .failed s.core)))) s))
    ∧ ∀ (m : Motion) (c : Core), c = countFault m.valve (freeSlot k m .failed s.core) →
      slotOf k c = none
        ∧ valveOf m.valve c = { valveOf m.valve s.core with
            status := .failed, faults := min 255 ((valveOf m.valve s.core).faults + 1) }
        ∧ (∀ v, v ≠ m.valve → valveOf v c = valveOf v s.core) ∧ ∀ j, j ≠ k → slotOf j c = slotOf j s.core)
    ∧ (∀ (k : Nat) (m : Motion) (st : ValveMark) (c d : Core), d = freeSlot k m st c →
      slotOf k d = none ∧ (∀ j, j ≠ k → slotOf j d = slotOf j c)
        ∧ valveOf m.valve d = { valveOf m.valve c with status := st } ∧ (∀ v, v ≠ m.valve → valveOf v d = valveOf v c)
        ∧ d.ds.outbox = c.ds.outbox ++ [.discard k] ∧ d.ts = c.ts ∧ d.wu = c.wu ∧ d.lu = c.lu ∧ d.ic = c.ic ∧ d.ip = c.ip
        ∧ d.log = c.log)
    ∧ (∀ (nv : Nv) (n v : Nat) (a : Action) (cause : FaultCause) (code : Nat) (c d : Core),
      (cause, code) ∈ [(FaultCause.noResponse, 1), (.jammed, 2), (.overrun, 3), (.stoppedShort, 4), (.held, 5),
        (.unusable, 6)] →
      d = beginPart (notify .valveFault n v 65535 code (setProgress n v a (.faulted cause) c)) →
      (a = .close → faultEntry nv n v a cause c = afterEntry nv n (tellFault nv n d))
      ∧ (a = .reopen → faultEntry nv n v a cause c = afterEntry nv n d))
    ∧ (∀ (nv : Nv) (n v : Nat) (a : Action) (p : Progress) (c : Core),
      endEntry nv n v a p c = afterEntry nv n (setProgress n v a p c)
      ∧ setProgress n v .close p c = changeIncident n (fun x => { x with
          closure := x.closure.map fun e => if e.valve = v then { e with progress := p } else e }) c
      ∧ setProgress n v .reopen p c = changeIncident n (fun x => { x with
          reopen := x.reopen.map fun e => if e.valve = v then { e with progress := p } else e }) c)
    ∧ (∀ (n : Nat) (f : Incident → Incident) (c : Core), changeIncident n f c = { c with ic := { c.ic with
        table := c.ic.table.map fun e => (e.1, if e.2.number = n then f e.2 else e.2) } })
    ∧ (∀ (nv : Nv) (n : Nat) (c : Core),
      (incident? n c = none → tellFault nv n c = c ∧ afterEntry nv n c = c)
      ∧ ∀ i, incident? n c = some i →
        (i.state = .isolating ∨ i.state = .suspending → tellFault nv n c = queueReplan nv n c)
        ∧ (i.state = .awaitingConsent → tellFault nv n c = changeIncident n (fun x => { x with owed := true }) c)
        ∧ (i.state ≠ .isolating → i.state ≠ .suspending → i.state ≠ .awaitingConsent → tellFault nv n c = c)
        ∧ (i.state = .isolating → afterEntry nv n c = completionTest nv n c)
        ∧ ((∃ p ∈ c.ds.slots, p.2.owner = n) → i.state ≠ .isolating → afterEntry nv n c = c)
        ∧ ((∀ p ∈ c.ds.slots, p.2.owner ≠ n) →
          (i.state = .suspending → afterEntry nv n c = changeState n .suspended c)
          ∧ (i.state = .restoring → i.reopen = [] → afterEntry nv n c = buildReopen nv n c)
          ∧ (i.state = .restoring → i.reopen ≠ [] →
            ((∀ e ∈ i.reopen, e.progress ≠ .queued ∧ e.progress ≠ .inMotion) → afterEntry nv n c = endIncident nv n c)
            ∧ ((∃ e ∈ i.reopen, e.progress = .queued ∨ e.progress = .inMotion) → afterEntry nv n c = c)))
        ∧ (i.state ≠ .isolating → i.state ≠ .suspending → i.state ≠ .restoring → afterEntry nv n c = c))
    ∧ ∀ (nv : Nv) (n : Nat) (c : Core),
      buildReopen nv n c = startReopen nv n (reopenList nv n c).1 (reopenList nv n c).2

/-! ### Operations the commands share -/

/-- An evaluated reading: seeding where the channel is unseeded or STALE; else the deviation from the baseline divided by 16,
rounded down, as a fall for PRESSURE (kind 0) and a rise for FLOW, between 0 and 4095; then the run of the channel's state; a
reading that ends in QUIET moves the baseline by the difference divided by 2 to the power k, toward zero. -/
def Obligations.ReadingsMoveTheirChannel : Prop :=
  ∀ (r : SensorRecord) (x time : Nat) (ch new : Channel) (d b : Nat), new = evaluated r x time ch →
    d = min 4095 (if r.kind = 0 then ch.baseline / 16 - x else x - ch.baseline / 16) →
    (b : Int) = (ch.baseline : Int) + ((x : Int) * 16 - ch.baseline).tdiv (2 ^ r.shift) →
    (new.lastReading = some x ∧ new.lastTime = some time ∧ new.timer = some (r.timeout * 1000)
        ∧ new.home = ch.home)
    ∧ (ch.seeded = false ∨ ch.state = .stale →
        new.state = .quiet ∧ new.seeded = true ∧ new.baseline = x * 16 ∧ new.deviation = 0 ∧ new.persistence = 0
          ∧ new.release = 0)
    ∧ (ch.seeded = true → ch.state ≠ .stale →
        new.deviation = d
        ∧ (new.state = .quiet → new.baseline = b) ∧ (new.state ≠ .quiet → new.baseline = ch.baseline)
        ∧ (ch.state = .quiet → d < r.threshold → new.state = .quiet ∧ new.persistence = 0 ∧ new.release = 0)
        ∧ (ch.state = .quiet → r.threshold ≤ d → 1 < r.persistence → new.state = .suspect ∧ new.persistence = 1)
        ∧ (ch.state = .quiet → r.threshold ≤ d → r.persistence ≤ 1 →
            new.state = .tripped ∧ new.persistence = 0 ∧ new.release = 0)
        ∧ (ch.state = .suspect → d < r.threshold → new.state = .quiet ∧ new.persistence = 0)
        ∧ (ch.state = .suspect → r.threshold ≤ d → ch.persistence + 1 < r.persistence →
            new.state = .suspect ∧ new.persistence = ch.persistence + 1)
        ∧ (ch.state = .suspect → r.threshold ≤ d → r.persistence ≤ ch.persistence + 1 →
            new.state = .tripped ∧ new.persistence = 0 ∧ new.release = 0)
        ∧ (ch.state = .tripped ∨ ch.state = .attributed → r.threshold / 2 ≤ d →
            new.state = ch.state ∧ new.release = 0 ∧ new.incident = ch.incident)
        ∧ (ch.state = .tripped ∨ ch.state = .attributed → d < r.threshold / 2 → ch.release + 1 < r.persistence →
            new.state = ch.state ∧ new.release = ch.release + 1 ∧ new.incident = ch.incident)
        ∧ (ch.state = .tripped ∨ ch.state = .attributed → d < r.threshold / 2 → r.persistence ≤ ch.release + 1 →
            new.state = .quiet ∧ new.persistence = 0 ∧ new.release = 0 ∧ new.incident = none))

/-- A read of an entry or index record of the active bank, by what the place held before and what the check code shows; a mark
changes no other place; TABLE_ERROR names the place and carries 16 times the area number plus the condition, 1 CORRECTED or 2
POISONED (where it joins the queue: log 15). A place POISONED puts the segments it bears on (log 24) among those to be recomputed:
its own, that of an association, and those of a sensor's associations not already POISONED. In table state NONE nothing is read
and every entry reads absent; in VALID a present entry is read and any index record, an absent entry is not, and the reader is
given POISONED where the place is or now becomes POISONED, and else the record. -/
def Obligations.ReadsMarkTheConditionMap : Prop :=
  (∀ (nv : Nv) (p : Place) (c : Core),
    (nv.active.wrongAt p = none → touchPlace nv p c = c)
    ∧ (markAt c p = some .poisoned → touchPlace nv p c = c)
    ∧ (nv.active.wrongAt p = some .one → markAt c p = some .corrected → touchPlace nv p c = c)
    ∧ (∀ v g, v = (if p.area = .segment ∨ p.area = .segmentIndex then 65535 else p.index) →
      g = (if p.area = .segment ∨ p.area = .segmentIndex then p.index else 65535) →
      (nv.active.wrongAt p = some .one → markAt c p = none →
        touchPlace nv p c = notifyTableError v g (16 * p.area.code + 1)
          { c with ts := { c.ts with map := c.ts.map.put p.key .corrected
                                     corrections := if c.ts.corrections = 65535 then 65535 else c.ts.corrections + 1 } })
      ∧ (nv.active.wrongAt p = some .two → markAt c p ≠ some .poisoned →
        touchPlace nv p c = notifyTableError v g (16 * p.area.code + 2) (markDirty (bearsOn nv p c)
          { c with ts := { c.ts with map := c.ts.map.put p.key .poisoned } })))
    ∧ (nv.active.wrongAt p = some .one → markAt c p = none →
        markAt (touchPlace nv p c) p = some .corrected
        ∧ (touchPlace nv p c).ts.corrections = (if c.ts.corrections = 65535 then 65535 else c.ts.corrections + 1))
    ∧ (nv.active.wrongAt p = some .two → markAt c p ≠ some .poisoned →
        markAt (touchPlace nv p c) p = some .poisoned ∧ (touchPlace nv p c).ts.corrections = c.ts.corrections)
    ∧ ∀ q : Place, q.key ≠ p.key → markAt (touchPlace nv p c) q = markAt c q)
    ∧ (∀ (nv : Nv) (t : TableName) (i : Nat) (c : Core),
      (c.ts.valid = false ∨ (nv.active.tables.of t).at? i = none →
        touchEntry nv t i c = c ∧ seen nv t i c = .absent)
      ∧ ∀ r, c.ts.valid = true → (nv.active.tables.of t).at? i = some r →
        touchEntry nv t i c = touchPlace nv ⟨t.area, i⟩ c
        ∧ (markAt c ⟨t.area, i⟩ = some .poisoned → seen nv t i c = .poisoned)
        ∧ (markAt c ⟨t.area, i⟩ ≠ some .poisoned → seen nv t i c = .value r)
        ∧ (nv.active.wrongAt ⟨t.area, i⟩ = some .two ∨ markAt c ⟨t.area, i⟩ = some .poisoned →
          seen nv t i (touchEntry nv t i c) = .poisoned)
        ∧ (nv.active.wrongAt ⟨t.area, i⟩ ≠ some .two → markAt c ⟨t.area, i⟩ ≠ some .poisoned →
          seen nv t i (touchEntry nv t i c) = .value r))
    ∧ (∀ (nv : Nv) (i : Nat) (c : Core), nv.active.tables.associations.wf = true →
      bearsOn nv ⟨.segment, i⟩ c = [i] ∧ bearsOn nv ⟨.segmentIndex, i⟩ c = [i]
        ∧ bearsOn nv ⟨.valve, i⟩ c = [] ∧ bearsOn nv ⟨.stationIndex, i⟩ c = []
        ∧ (∀ r, nv.active.tables.associations.at? i = some r → bearsOn nv ⟨.association, i⟩ c = [r.association.segment])
        ∧ (nv.active.tables.associations.at? i = none → bearsOn nv ⟨.association, i⟩ c = [])
        ∧ bearsOn nv ⟨.sensorIndex, i⟩ c = bearsOn nv ⟨.sensor, i⟩ c
        ∧ ∃ as : List (Nat × Record), (as.Pairwise fun x y => x.1 < y.1)
          ∧ (∀ a r, (a, r) ∈ as ↔ nv.active.tables.associations.at? a = some r ∧ r.association.sensor = i
              ∧ poisonedAt c ⟨.association, a⟩ = false)
          ∧ bearsOn nv ⟨.sensor, i⟩ c = as.map fun x => x.2.association.segment)
    ∧ (∀ (nv : Nv) (a : Area) (i : Nat) (c : Core),
      (c.ts.valid = false → touchIndex nv a i c = c ∧ indexPoisoned a i c = false)
      ∧ (c.ts.valid = true → touchIndex nv a i c = touchPlace nv ⟨a, i⟩ c
        ∧ (indexPoisoned a i c = true ↔ markAt c ⟨a, i⟩ = some .poisoned)
        ∧ (indexPoisoned a i (touchIndex nv a i c) = true ↔
          nv.active.wrongAt ⟨a, i⟩ = some .two ∨ markAt c ⟨a, i⟩ = some .poisoned)))
    ∧ ∀ (nv : Nv) (t : TableName) (c : Core), (nv.active.tables.of t).wf = true →
      (∀ i, i ∈ presentIn nv t c ↔ c.ts.valid = true ∧ (nv.active.tables.of t).at? i ≠ none)
      ∧ (presentIn nv t c).Pairwise (· < ·)

/-- An arbiter's order puts one incident before another: ISOLATING before RESTORING, then the lower class, then the raise order
where the setting is FIXED, the rotation key and then the raise order where it is ROTATING (08 R158). -/
def GrantedBefore (fixed : Bool) (i j : Incident) : Prop :=
  (i.state = .isolating ∧ j.state = .restoring)
    ∨ (i.state = j.state ∧ (i.cls < j.cls ∨ (i.cls = j.cls
      ∧ ((fixed = true ∧ i.order < j.order)
        ∨ (fixed = false ∧ (i.key < j.key ∨ (i.key = j.key ∧ i.order < j.order)))))))

/-- The checks at a grant, in their order, for a closure entry and for a reopen entry (an absent entry counts as POISONED, log
26), and the token of a drive: one more than the last, from 255 back to 1, and one more again where it would equal the echoed
token. A run of the arbiter grants while a slot is IDLE and an entry is eligible: in its order, the first incident with an
eligible entry, and the first such entry; the entries read to find it are log 19, their order log 38, and each grant begins a part
of the event (log 15). An issued drive takes the token, fills the slot, goes to both ports, at the event's end and in the order of
issue (log 16), and refreshes the rotation key; a port UP puts it in the place of a waiting copy of its slot, or at the end (log
17). -/
def Obligations.GrantsCheckTheirValve : Prop :=
  (∀ (nv : Nv) (n v k : Nat) (c d : Core) (x : ValveStatus), d = touchEntry nv .valve v c → x = valveOf v d →
      (held nv v d = true → takeEntry nv n v .close k c = faultEntry nv n v .close .held d)
      ∧ (held nv v d = false →
        (x.status = .failed ∨ (∀ r, seen nv .valve v d ≠ .value r) →
          takeEntry nv n v .close k c = faultEntry nv n v .close .unusable d)
        ∧ ∀ r, x.status ≠ .failed → seen nv .valve v d = .value r →
          (x.position = .closed → takeEntry nv n v .close k c = endEntry nv n v .close .done d)
          ∧ (x.position ≠ .closed → takeEntry nv n v .close k c = issueDrive nv n v .close k r.valve d))
      ∧ (0 < x.claims → takeEntry nv n v .reopen k c = endEntry nv n v .reopen .skipped d)
      ∧ (x.claims = 0 →
        (held nv v d = true → takeEntry nv n v .reopen k c = faultEntry nv n v .reopen .held d)
        ∧ (held nv v d = false →
          (x.status = .failed ∨ (∀ r, seen nv .valve v d ≠ .value r) →
            takeEntry nv n v .reopen k c = faultEntry nv n v .reopen .unusable d)
          ∧ ∀ r, x.status ≠ .failed → seen nv .valve v d = .value r →
            (x.position = .opened → takeEntry nv n v .reopen k c = endEntry nv n v .reopen .done d)
            ∧ (x.position ≠ .opened → takeEntry nv n v .reopen k c = issueDrive nv n v .reopen k r.valve d))))
    ∧ (∀ x : ValveStatus, x.token ≤ 255 →
      (1 ≤ nextToken x ∧ nextToken x ≤ 255 ∧ nextToken x ≠ x.echo ∧ nextToken x ≠ x.token)
      ∧ ∀ y, y = (if x.token = 255 then 1 else x.token + 1) →
        (y ≠ x.echo → nextToken x = y) ∧ (y = x.echo → nextToken x = if y = 255 then 1 else y + 1))
    ∧ (∀ (nv : Nv) (k : Nat) (c : Core), arbiter nv c = grantLoop nv (queuedEntries c + 1025) c
      ∧ (idleSlot c = none → grantLoop nv (k + 1) c = c)
      ∧ ∀ j, idleSlot c = some j →
        (∀ d, scan nv (grantOrder nv c) (beginPart c) = (none, d) → grantLoop nv (k + 1) c = d)
        ∧ ∀ n v a d, scan nv (grantOrder nv c) (beginPart c) = (some (n, v, a), d) →
          grantLoop nv (k + 1) c = grantLoop nv k (takeEntry nv n v a j d))
    ∧ (∀ c : Core, (idleSlot c = none ↔ ∀ j, j < 8 → (slotOf j c).isSome = true)
      ∧ ∀ k, idleSlot c = some k ↔ k < 8 ∧ slotOf k c = none ∧ ∀ j, j < k → (slotOf j c).isSome = true)
    ∧ (∀ (nv : Nv) (c : Core), (∀ i, i ∈ grantOrder nv c ↔ i ∈ live c ∧ (i.state = .isolating ∨ i.state = .restoring))
      ∧ (grantOrder nv c).Pairwise fun i j => ¬GrantedBefore (nv.settings.grantOrder == 0) j i)
    ∧ (∀ (nv : Nv) (i : Incident) (rest : List Incident) (a : Action) (es : List (Nat × Progress)) (c d : Core),
      (i.state = .isolating → a = .close ∧ es = i.closure.map fun e => (e.valve, e.progress)) →
      (i.state = .restoring → a = .reopen ∧ es = i.reopen.map fun e => (e.valve, e.progress)) →
      (i.state = .isolating ∨ i.state = .restoring) →
      d = (es.filter fun e => !e.2.ended).foldl (fun c e => touchEntry nv .valve e.1 c) c →
      scan nv [] c = (none, c)
      ∧ (∀ before e after, es = before ++ e :: after → (∀ f ∈ before, eligible nv a es f d = false) →
          eligible nv a es e d = true → scan nv (i :: rest) c = (some (i.number, e.1, a), d))
      ∧ ((∀ f ∈ es, eligible nv a es f d = false) → scan nv (i :: rest) c = scan nv rest d))
    ∧ (∀ (nv : Nv) (a : Action) (es : List (Nat × Progress)) (e : Nat × Progress) (stage : Nat → Nat) (c : Core),
      (∀ v, ((∀ r, seen nv .valve v c ≠ .value r) → stage v = 0)
        ∧ ∀ r, seen nv .valve v c = .value r → stage v = if a = .close then r.valve.rank else 7 - r.valve.rank) →
      (eligible nv a es e c = true ↔ e.2 = .queued
        ∧ (∀ f ∈ es, (f.2 = .queued ∨ f.2 = .inMotion) → stage e.1 ≤ stage f.1)
        ∧ (∀ p ∈ c.ds.slots, p.2.valve ≠ e.1)
        ∧ ∀ r, seen nv .valve e.1 c = .value r → r.valve.surge ≠ 0 → ∀ p ∈ c.ds.slots, p.2.surge ≠ r.valve.surge))
    ∧ (∀ (nv : Nv) (n v k : Nat) (a : Action) (r : ValveRecord) (x : ValveStatus) (c : Core), x = valveOf v c →
      issueDrive nv n v a k r c = refreshKey n (setProgress n v a .inMotion
        (handDrive ⟨k, r.station, r.channel, a, r.stroke, nextToken x⟩
          (setSlot k { phase := .issued, valve := v, action := a, token := nextToken x, owner := n, surge := r.surge
                       stroke := r.stroke, reissued := false, response := some (nv.settings.response * 1000)
                       strokeTimer := none }
            (setValve v { x with token := nextToken x, lastAction := some a, status := .moving } c)))))
    ∧ (∀ (n : Nat) (c : Core) (rank : Nat → Nat),
      (c.ic.rotations < 4294967295 → refreshKey n c =
        changeIncident n (fun x => { x with key := c.ic.rotations + 1 })
          { c with ic := { c.ic with rotations := c.ic.rotations + 1 } })
      ∧ (4294967295 ≤ c.ic.rotations → (∀ k, rank k = if k = 0 then 0 else
            ((live c).filter fun i => i.key ≠ 0 ∧ i.key < k).length + 1) →
        ∀ m, m = ((live c).filter fun i => i.key ≠ 0).length → refreshKey n c =
          changeIncident n (fun x => { x with key := m + 1 }) { c with ic := { c.ic with
            table := c.ic.table.map fun p => (p.1, { p.2 with key := rank p.2.key }), rotations := m + 1 } }))
    ∧ (∀ (d : Drive) (c : Core), handDrive d c = { c with ds := { c.ds with outbox := c.ds.outbox ++ [.issue d] } })
    ∧ (∀ (s : State), settle s = settle { s with
        core := { s.core with ds := { s.core.ds with outbox := [] } }, ring := s.core.ds.outbox.foldl driveOrder s.ring })
    ∧ (∀ (r : Ring) (o : DriveOrder), driveOrder r o = { r with east := portOrder o r.east, west := portOrder o r.west })
    ∧ ∀ (d : Drive) (k : Nat) (x : PortState),
      portOrder (.discard k) x = { x with drives := x.drives.filter fun y => !(y.drive.slot == k && !y.sending) }
      ∧ (x.up = false → portOrder (.issue d) x = x)
      ∧ (x.up = true → (∀ y ∈ x.drives, y.drive.slot = d.slot → y.sending = true) →
          portOrder (.issue d) x = { x with drives := x.drives ++ [⟨d, none, false⟩] })
      ∧ (x.up = true → (∃ y ∈ x.drives, y.drive.slot = d.slot ∧ y.sending = false) →
          portOrder (.issue d) x = { x with drives := x.drives.map fun y =>
            if y.drive.slot = d.slot ∧ y.sending = false then ⟨d, none, false⟩ else y })

/-- A change of a live incident's state queues INCIDENT_STATE with the new state's code, the burst segment and, for STALLED, the
stall cause, and brings ALERT to its level; a notice joins the end of the queue with the part time, or is lost and counted with 32
queued; a TABLE_ERROR joins behind the TABLE_ERRORs of its event's part and before the part's other notices, and where the queue
is full the last of these is lost for it, or itself where there is none (log 15); a channel that leaves an attributed list and
empties it makes a CONFIRMING or UNCONFIRMED incident ISOLATED; and the completion test takes a complete ISOLATING incident to
CONFIRMING with its timer, or to ISOLATED with UNVERIFIED set. -/
def Obligations.StateChangesAreReported : Prop :=
  (∀ (kind : NoticeKind) (n v g code : Nat) (c : Core),
      (c.log.notices.length < 32 → notify kind n v g code c =
        { c with log := { c.log with notices := c.log.notices ++ [⟨kind, c.log.time, n, v, g, code⟩] } })
      ∧ (32 ≤ c.log.notices.length → notify kind n v g code c =
        { c with log := { c.log with lost := if c.log.lost = 65535 then 65535 else c.log.lost + 1 } }))
    ∧ (∀ (v g code : Nat) (c : Core) (before after : List Notice) (x : Notice), c.log.notices = before ++ after →
      before.length = c.log.seam → x = ⟨.tableError, c.log.time, 0, v, g, code⟩ →
      (c.log.notices.length < 32 → notifyTableError v g code c = { c with log := { c.log with
          notices := before ++ x :: after, seam := c.log.seam + 1 } })
      ∧ (32 ≤ c.log.notices.length → after = [] → notifyTableError v g code c = { c with log := { c.log with
          lost := if c.log.lost = 65535 then 65535 else c.log.lost + 1 } })
      ∧ (32 ≤ c.log.notices.length → after ≠ [] → notifyTableError v g code c = { c with log := { c.log with
          notices := before ++ x :: after.dropLast, seam := c.log.seam + 1
          lost := if c.log.lost = 65535 then 65535 else c.log.lost + 1 } }))
    ∧ (∀ (c : Core), beginPart c = { c with log := { c.log with seam := c.log.notices.length } })
    ∧ (∀ (n i : Nat) (why : Departure) (c d : Core) (x y : Incident), incident? n c = some x →
      y = { x with attributed := x.attributed.filter (· ≠ i), unverified := x.unverified || decide (why = .stale) } →
      d = changeIncident n (fun z => { z with
        attributed := z.attributed.filter (· ≠ i), unverified := z.unverified || decide (why = .stale) }) c →
      (y.attributed = [] → (x.state = .confirming ∨ x.state = .unconfirmed) →
        leaveList n i why c = changeState n .isolated (changeIncident n (fun z => { z with timer := none }) d))
      ∧ (y.attributed ≠ [] ∨ (x.state ≠ .confirming ∧ x.state ≠ .unconfirmed) → leaveList n i why c = d))
    ∧ (∀ (n : Nat) (st : IncidentState) (i : Incident) (c : Core), incident? n c = some i →
      changeState n st c = levelAlert (notify .incidentState n (if st = .stalled then stallCode i.stall else 65535) i.burst
        st.code (changeIncident n (fun x => { x with state := st }) c))
      ∧ (changeState n st c).ic.table = c.ic.table.map (fun p =>
          if p.2.number = n then (p.1, { p.2 with state := st }) else p)
      ∧ ((changeState n st c).ic.alert = true ↔ ∃ x ∈ live (changeState n st c),
          x.state = .awaitingConsent ∨ x.state = .unconfirmed ∨ x.state = .stalled)
      ∧ (c.log.notices.length < 32 → (changeState n st c).log.notices = c.log.notices ++
          [⟨.incidentState, c.log.time, n, if st = .stalled then stallCode i.stall else 65535, i.burst, st.code⟩])
      ∧ (changeState n st c).ts = c.ts ∧ (changeState n st c).wu = c.wu ∧ (changeState n st c).lu = c.lu
      ∧ (changeState n st c).ip = c.ip ∧ (changeState n st c).ds = c.ds)
    ∧ ∀ (nv : Nv) (n : Nat) (c : Core),
      (incident? n c = none → completionTest nv n c = c)
      ∧ ∀ i, incident? n c = some i →
        ((i.state ≠ .isolating ∨ (∃ e ∈ i.closure, e.progress = .queued ∨ e.progress = .inMotion)
            ∨ i.order ∈ c.ip.queue ∨ (∃ kind w, c.ip.engine = .running i.order kind w)) → completionTest nv n c = c)
        ∧ (i.state = .isolating → (∀ e ∈ i.closure, e.progress ≠ .queued ∧ e.progress ≠ .inMotion) →
          i.order ∉ c.ip.queue → (∀ kind w, c.ip.engine ≠ .running i.order kind w) →
          (i.attributed ≠ [] → completionTest nv n c = changeState n .confirming (changeIncident n
            (fun x => { x with timer := some (nv.settings.confirmation * 1000) }) c))
          ∧ (i.attributed = [] → completionTest nv n c = changeState n .isolated (changeIncident n
            (fun x => { x with unverified := true }) c)))

/-! ### Invariants that every step keeps -/

/-- The queues keep within their capacities: 32 notices, 4 answers, 2 receive buffers a port, one waiting DRIVE copy a slot in
each port's queue, one replan request a live incident; a READY handler leaves no request held; and between events the seam, which
is the model's own (log 15), stands behind every queued notice. -/
def Obligations.QueuesStayBounded : Prop := KeptByEveryStep QueuesBounded

/-- Table state VALID always means an active bank marked VALID and a generation other than 0. -/
def Obligations.TablesStayConsistent : Prop := KeptByEveryStep TablesConsistent

/-- Every setting stays in its range, and the part address differs from both manager addresses. -/
def Obligations.SettingsStayLegal : Prop := KeptByEveryStep SettingsInRange

/-- While BYPASS is engaged both links stay DOWN, and while the part is held in reset everything volatile stays at its reset
value. That it does so without supplies too, BYPASS engaged, is the model's choice (log 8). -/
def Obligations.ResetHoldsThePart : Prop := KeptByEveryStep ResetHoldsEverything

/-- Every array stays in canonical form: the tables and damage of both banks, the shadow tables, the condition map, the holds, the
contexts, scores, windows, slots and valve statuses, and the arrays of the running plan's snapshot; and the incident table stays
within its 16 entries. -/
def Obligations.ArraysStayCanonical : Prop := KeptByEveryStep ArraysCanonical

/-- Baselines, deviations, scores and fault counts stay in their ranges. -/
def Obligations.ValuesStayInRange : Prop := KeptByEveryStep ValuesInRange
end

