-- ==== Sys2Proof/Laws/State.lean ====
section
/-! SUPPORT. What each update of the blocks leaves and what it writes, one field a lemma; every one true by `rfl`. -/

namespace Sys2Proof.Machine

variable (c : Core)

@[simp] theorem setMark_wu (p : Place) (m : Mark) : (setMark p m c).wu = c.wu := rfl
@[simp] theorem setMark_lu (p : Place) (m : Mark) : (setMark p m c).lu = c.lu := rfl
@[simp] theorem setMark_ic (p : Place) (m : Mark) : (setMark p m c).ic = c.ic := rfl
@[simp] theorem setMark_ip (p : Place) (m : Mark) : (setMark p m c).ip = c.ip := rfl
@[simp] theorem setMark_ds (p : Place) (m : Mark) : (setMark p m c).ds = c.ds := rfl
@[simp] theorem setMark_log (p : Place) (m : Mark) : (setMark p m c).log = c.log := rfl
@[simp] theorem setMark_ts_valid (p : Place) (m : Mark) : (setMark p m c).ts.valid = c.ts.valid := rfl
@[simp] theorem setMark_ts_map (p : Place) (m : Mark) : (setMark p m c).ts.map = c.ts.map.put p.key m := rfl
@[simp] theorem setMark_ts_corrections (p : Place) (m : Mark) : (setMark p m c).ts.corrections = c.ts.corrections := rfl
@[simp] theorem setMark_ts_compile (p : Place) (m : Mark) : (setMark p m c).ts.compile = c.ts.compile := rfl
@[simp] theorem setMark_ts_shadow (p : Place) (m : Mark) : (setMark p m c).ts.shadow = c.ts.shadow := rfl

@[simp] theorem beginPart_ts : (beginPart c).ts = c.ts := rfl
@[simp] theorem beginPart_wu : (beginPart c).wu = c.wu := rfl
@[simp] theorem beginPart_lu : (beginPart c).lu = c.lu := rfl
@[simp] theorem beginPart_ic : (beginPart c).ic = c.ic := rfl
@[simp] theorem beginPart_ip : (beginPart c).ip = c.ip := rfl
@[simp] theorem beginPart_ds : (beginPart c).ds = c.ds := rfl
@[simp] theorem beginPart_log_notices : (beginPart c).log.notices = c.log.notices := rfl
@[simp] theorem beginPart_log_lost : (beginPart c).log.lost = c.log.lost := rfl
@[simp] theorem beginPart_log_time : (beginPart c).log.time = c.log.time := rfl
@[simp] theorem beginPart_log_seam : (beginPart c).log.seam = c.log.notices.length := rfl

@[simp] theorem removeIncident_ts (n : Nat) : (removeIncident n c).ts = c.ts := rfl
@[simp] theorem removeIncident_wu (n : Nat) : (removeIncident n c).wu = c.wu := rfl
@[simp] theorem removeIncident_lu (n : Nat) : (removeIncident n c).lu = c.lu := rfl
@[simp] theorem removeIncident_ds (n : Nat) : (removeIncident n c).ds = c.ds := rfl
@[simp] theorem removeIncident_log (n : Nat) : (removeIncident n c).log = c.log := rfl
@[simp] theorem removeIncident_ic_mode (n : Nat) : (removeIncident n c).ic.mode = c.ic.mode := rfl
@[simp] theorem removeIncident_ic_mask (n : Nat) : (removeIncident n c).ic.mask = c.ic.mask := rfl
@[simp] theorem removeIncident_ic_nextNumber (n : Nat) : (removeIncident n c).ic.nextNumber = c.ic.nextNumber := rfl
@[simp] theorem removeIncident_ic_raises (n : Nat) : (removeIncident n c).ic.raises = c.ic.raises := rfl
@[simp] theorem removeIncident_ic_rotations (n : Nat) : (removeIncident n c).ic.rotations = c.ic.rotations := rfl
@[simp] theorem removeIncident_ic_alert (n : Nat) : (removeIncident n c).ic.alert = c.ic.alert := rfl
@[simp] theorem removeIncident_ic_picks (n : Nat) : (removeIncident n c).ic.picks = c.ic.picks := rfl
@[simp] theorem removeIncident_ic_table (n : Nat) :
    (removeIncident n c).ic.table = c.ic.table.filter fun p => p.2.number ≠ n := rfl
@[simp] theorem removeIncident_ip_engine (n : Nat) : (removeIncident n c).ip.engine = c.ip.engine := rfl

@[simp] theorem endEvent_nv (s : State) : (endEvent s).nv = s.nv := rfl
@[simp] theorem endEvent_handler (s : State) : (endEvent s).handler = s.handler := rfl
@[simp] theorem endEvent_ring (s : State) : (endEvent s).ring = s.ring := rfl
@[simp] theorem endEvent_lines (s : State) : (endEvent s).lines = s.lines := rfl
@[simp] theorem endEvent_fresh (s : State) : (endEvent s).fresh = s.fresh := rfl
@[simp] theorem endEvent_pending (s : State) : (endEvent s).pending = s.pending := rfl
@[simp] theorem endEvent_core (s : State) : (endEvent s).core = beginPart s.core := rfl

@[simp] theorem setChannel_ts (i : Nat) (ch : Channel) : (setChannel i ch c).ts = c.ts := rfl
@[simp] theorem setChannel_lu (i : Nat) (ch : Channel) : (setChannel i ch c).lu = c.lu := rfl
@[simp] theorem setChannel_ic (i : Nat) (ch : Channel) : (setChannel i ch c).ic = c.ic := rfl
@[simp] theorem setChannel_ip (i : Nat) (ch : Channel) : (setChannel i ch c).ip = c.ip := rfl
@[simp] theorem setChannel_ds (i : Nat) (ch : Channel) : (setChannel i ch c).ds = c.ds := rfl
@[simp] theorem setChannel_log (i : Nat) (ch : Channel) : (setChannel i ch c).log = c.log := rfl
@[simp] theorem setChannel_wu_channels (i : Nat) (ch : Channel) : (setChannel i ch c).wu.channels = c.wu.channels.putD .reset i ch := rfl
@[simp] theorem setChannel_wu_lastSeq (i : Nat) (ch : Channel) : (setChannel i ch c).wu.lastSeq = c.wu.lastSeq := rfl

@[simp] theorem setScore_ts (g n : Nat) : (setScore g n c).ts = c.ts := rfl
@[simp] theorem setScore_wu (g n : Nat) : (setScore g n c).wu = c.wu := rfl
@[simp] theorem setScore_ic (g n : Nat) : (setScore g n c).ic = c.ic := rfl
@[simp] theorem setScore_ip (g n : Nat) : (setScore g n c).ip = c.ip := rfl
@[simp] theorem setScore_ds (g n : Nat) : (setScore g n c).ds = c.ds := rfl
@[simp] theorem setScore_log (g n : Nat) : (setScore g n c).log = c.log := rfl
@[simp] theorem setScore_lu_scores (g n : Nat) : (setScore g n c).lu.scores = c.lu.scores.putD 0 g n := rfl
@[simp] theorem setScore_lu_windows (g n : Nat) : (setScore g n c).lu.windows = c.lu.windows := rfl
@[simp] theorem setScore_lu_dirty (g n : Nat) : (setScore g n c).lu.dirty = c.lu.dirty := rfl

@[simp] theorem setWindow_ts (z : Nat) (w : Window) : (setWindow z w c).ts = c.ts := rfl
@[simp] theorem setWindow_wu (z : Nat) (w : Window) : (setWindow z w c).wu = c.wu := rfl
@[simp] theorem setWindow_ic (z : Nat) (w : Window) : (setWindow z w c).ic = c.ic := rfl
@[simp] theorem setWindow_ip (z : Nat) (w : Window) : (setWindow z w c).ip = c.ip := rfl
@[simp] theorem setWindow_ds (z : Nat) (w : Window) : (setWindow z w c).ds = c.ds := rfl
@[simp] theorem setWindow_log (z : Nat) (w : Window) : (setWindow z w c).log = c.log := rfl
@[simp] theorem setWindow_lu_windows (z : Nat) (w : Window) : (setWindow z w c).lu.windows = c.lu.windows.putD .closed z w := rfl
@[simp] theorem setWindow_lu_scores (z : Nat) (w : Window) : (setWindow z w c).lu.scores = c.lu.scores := rfl
@[simp] theorem setWindow_lu_dirty (z : Nat) (w : Window) : (setWindow z w c).lu.dirty = c.lu.dirty := rfl

@[simp] theorem markDirty_ts (gs : List Nat) : (markDirty gs c).ts = c.ts := rfl
@[simp] theorem markDirty_wu (gs : List Nat) : (markDirty gs c).wu = c.wu := rfl
@[simp] theorem markDirty_ic (gs : List Nat) : (markDirty gs c).ic = c.ic := rfl
@[simp] theorem markDirty_ip (gs : List Nat) : (markDirty gs c).ip = c.ip := rfl
@[simp] theorem markDirty_ds (gs : List Nat) : (markDirty gs c).ds = c.ds := rfl
@[simp] theorem markDirty_log (gs : List Nat) : (markDirty gs c).log = c.log := rfl
@[simp] theorem markDirty_lu_windows (gs : List Nat) : (markDirty gs c).lu.windows = c.lu.windows := rfl
@[simp] theorem markDirty_lu_scores (gs : List Nat) : (markDirty gs c).lu.scores = c.lu.scores := rfl

@[simp] theorem setValve_ts (v : Nat) (x : ValveStatus) : (setValve v x c).ts = c.ts := rfl
@[simp] theorem setValve_wu (v : Nat) (x : ValveStatus) : (setValve v x c).wu = c.wu := rfl
@[simp] theorem setValve_lu (v : Nat) (x : ValveStatus) : (setValve v x c).lu = c.lu := rfl
@[simp] theorem setValve_ic (v : Nat) (x : ValveStatus) : (setValve v x c).ic = c.ic := rfl
@[simp] theorem setValve_ip (v : Nat) (x : ValveStatus) : (setValve v x c).ip = c.ip := rfl
@[simp] theorem setValve_log (v : Nat) (x : ValveStatus) : (setValve v x c).log = c.log := rfl
@[simp] theorem setValve_ds_valves (v : Nat) (x : ValveStatus) : (setValve v x c).ds.valves = c.ds.valves.putD .reset v x := rfl
@[simp] theorem setValve_ds_slots (v : Nat) (x : ValveStatus) : (setValve v x c).ds.slots = c.ds.slots := rfl
@[simp] theorem setValve_ds_outbox (v : Nat) (x : ValveStatus) : (setValve v x c).ds.outbox = c.ds.outbox := rfl

@[simp] theorem setSlot_ts (k : Nat) (m : Motion) : (setSlot k m c).ts = c.ts := rfl
@[simp] theorem setSlot_wu (k : Nat) (m : Motion) : (setSlot k m c).wu = c.wu := rfl
@[simp] theorem setSlot_lu (k : Nat) (m : Motion) : (setSlot k m c).lu = c.lu := rfl
@[simp] theorem setSlot_ic (k : Nat) (m : Motion) : (setSlot k m c).ic = c.ic := rfl
@[simp] theorem setSlot_ip (k : Nat) (m : Motion) : (setSlot k m c).ip = c.ip := rfl
@[simp] theorem setSlot_log (k : Nat) (m : Motion) : (setSlot k m c).log = c.log := rfl
@[simp] theorem setSlot_ds_slots (k : Nat) (m : Motion) : (setSlot k m c).ds.slots = c.ds.slots.put k m := rfl
@[simp] theorem setSlot_ds_valves (k : Nat) (m : Motion) : (setSlot k m c).ds.valves = c.ds.valves := rfl
@[simp] theorem setSlot_ds_outbox (k : Nat) (m : Motion) : (setSlot k m c).ds.outbox = c.ds.outbox := rfl

@[simp] theorem clearSlot_ts (k : Nat) : (clearSlot k c).ts = c.ts := rfl
@[simp] theorem clearSlot_wu (k : Nat) : (clearSlot k c).wu = c.wu := rfl
@[simp] theorem clearSlot_lu (k : Nat) : (clearSlot k c).lu = c.lu := rfl
@[simp] theorem clearSlot_ic (k : Nat) : (clearSlot k c).ic = c.ic := rfl
@[simp] theorem clearSlot_ip (k : Nat) : (clearSlot k c).ip = c.ip := rfl
@[simp] theorem clearSlot_log (k : Nat) : (clearSlot k c).log = c.log := rfl
@[simp] theorem clearSlot_ds_slots (k : Nat) : (clearSlot k c).ds.slots = c.ds.slots.del k := rfl
@[simp] theorem clearSlot_ds_valves (k : Nat) : (clearSlot k c).ds.valves = c.ds.valves := rfl
@[simp] theorem clearSlot_ds_outbox (k : Nat) : (clearSlot k c).ds.outbox = c.ds.outbox ++ [.discard k] := rfl

@[simp] theorem handDrive_ts (d : Drive) : (handDrive d c).ts = c.ts := rfl
@[simp] theorem handDrive_wu (d : Drive) : (handDrive d c).wu = c.wu := rfl
@[simp] theorem handDrive_lu (d : Drive) : (handDrive d c).lu = c.lu := rfl
@[simp] theorem handDrive_ic (d : Drive) : (handDrive d c).ic = c.ic := rfl
@[simp] theorem handDrive_ip (d : Drive) : (handDrive d c).ip = c.ip := rfl
@[simp] theorem handDrive_log (d : Drive) : (handDrive d c).log = c.log := rfl
@[simp] theorem handDrive_ds_slots (d : Drive) : (handDrive d c).ds.slots = c.ds.slots := rfl
@[simp] theorem handDrive_ds_valves (d : Drive) : (handDrive d c).ds.valves = c.ds.valves := rfl
@[simp] theorem handDrive_ds_outbox (d : Drive) : (handDrive d c).ds.outbox = c.ds.outbox ++ [.issue d] := rfl

@[simp] theorem changeIncident_ts (n : Nat) (f : Incident → Incident) : (changeIncident n f c).ts = c.ts := rfl
@[simp] theorem changeIncident_wu (n : Nat) (f : Incident → Incident) : (changeIncident n f c).wu = c.wu := rfl
@[simp] theorem changeIncident_lu (n : Nat) (f : Incident → Incident) : (changeIncident n f c).lu = c.lu := rfl
@[simp] theorem changeIncident_ip (n : Nat) (f : Incident → Incident) : (changeIncident n f c).ip = c.ip := rfl
@[simp] theorem changeIncident_ds (n : Nat) (f : Incident → Incident) : (changeIncident n f c).ds = c.ds := rfl
@[simp] theorem changeIncident_log (n : Nat) (f : Incident → Incident) : (changeIncident n f c).log = c.log := rfl
@[simp] theorem changeIncident_ic_mode (n : Nat) (f : Incident → Incident) : (changeIncident n f c).ic.mode = c.ic.mode := rfl
@[simp] theorem changeIncident_ic_mask (n : Nat) (f : Incident → Incident) : (changeIncident n f c).ic.mask = c.ic.mask := rfl
@[simp] theorem changeIncident_ic_nextNumber (n : Nat) (f : Incident → Incident) : (changeIncident n f c).ic.nextNumber = c.ic.nextNumber := rfl
@[simp] theorem changeIncident_ic_raises (n : Nat) (f : Incident → Incident) : (changeIncident n f c).ic.raises = c.ic.raises := rfl
@[simp] theorem changeIncident_ic_rotations (n : Nat) (f : Incident → Incident) : (changeIncident n f c).ic.rotations = c.ic.rotations := rfl
@[simp] theorem changeIncident_ic_alert (n : Nat) (f : Incident → Incident) : (changeIncident n f c).ic.alert = c.ic.alert := rfl
@[simp] theorem changeIncident_ic_picks (n : Nat) (f : Incident → Incident) : (changeIncident n f c).ic.picks = c.ic.picks := rfl

@[simp] theorem levelAlert_ts : (levelAlert c).ts = c.ts := rfl
@[simp] theorem levelAlert_wu : (levelAlert c).wu = c.wu := rfl
@[simp] theorem levelAlert_lu : (levelAlert c).lu = c.lu := rfl
@[simp] theorem levelAlert_ip : (levelAlert c).ip = c.ip := rfl
@[simp] theorem levelAlert_ds : (levelAlert c).ds = c.ds := rfl
@[simp] theorem levelAlert_log : (levelAlert c).log = c.log := rfl
@[simp] theorem levelAlert_ic_mode : (levelAlert c).ic.mode = c.ic.mode := rfl
@[simp] theorem levelAlert_ic_mask : (levelAlert c).ic.mask = c.ic.mask := rfl
@[simp] theorem levelAlert_ic_table : (levelAlert c).ic.table = c.ic.table := rfl
@[simp] theorem levelAlert_ic_alert : (levelAlert c).ic.alert = (live c).any fun i => i.state.alerts := rfl

@[simp] theorem startPlan_ts (nv : Nv) (i : Incident) (kind : PlanKind) : (startPlan nv i kind c).ts = c.ts := rfl
@[simp] theorem startPlan_wu (nv : Nv) (i : Incident) (kind : PlanKind) : (startPlan nv i kind c).wu = c.wu := rfl
@[simp] theorem startPlan_lu (nv : Nv) (i : Incident) (kind : PlanKind) : (startPlan nv i kind c).lu = c.lu := rfl
@[simp] theorem startPlan_ic (nv : Nv) (i : Incident) (kind : PlanKind) : (startPlan nv i kind c).ic = c.ic := rfl
@[simp] theorem startPlan_ds (nv : Nv) (i : Incident) (kind : PlanKind) : (startPlan nv i kind c).ds = c.ds := rfl
@[simp] theorem startPlan_log (nv : Nv) (i : Incident) (kind : PlanKind) : (startPlan nv i kind c).log = c.log := rfl
@[simp] theorem startPlan_ip_engine (nv : Nv) (i : Incident) (kind : PlanKind) : (startPlan nv i kind c).ip.engine = .running i.order kind (snapshotOf nv i c) := rfl
@[simp] theorem startPlan_ip_queue (nv : Nv) (i : Incident) (kind : PlanKind) : (startPlan nv i kind c).ip.queue = c.ip.queue := rfl

@[simp] theorem withdrawReplan_ts (order : Nat) : (withdrawReplan order c).ts = c.ts := rfl
@[simp] theorem withdrawReplan_wu (order : Nat) : (withdrawReplan order c).wu = c.wu := rfl
@[simp] theorem withdrawReplan_lu (order : Nat) : (withdrawReplan order c).lu = c.lu := rfl
@[simp] theorem withdrawReplan_ic (order : Nat) : (withdrawReplan order c).ic = c.ic := rfl
@[simp] theorem withdrawReplan_ds (order : Nat) : (withdrawReplan order c).ds = c.ds := rfl
@[simp] theorem withdrawReplan_log (order : Nat) : (withdrawReplan order c).log = c.log := rfl
@[simp] theorem withdrawReplan_ip_engine (order : Nat) : (withdrawReplan order c).ip.engine = c.ip.engine := rfl
@[simp] theorem withdrawReplan_ip_queue (order : Nat) : (withdrawReplan order c).ip.queue = c.ip.queue.filter fun o => o ≠ order := rfl

@[simp] theorem compileEnds_wu (r : CompileResult) : (compileEnds r c).wu = c.wu := rfl
@[simp] theorem compileEnds_lu (r : CompileResult) : (compileEnds r c).lu = c.lu := rfl
@[simp] theorem compileEnds_ic (r : CompileResult) : (compileEnds r c).ic = c.ic := rfl
@[simp] theorem compileEnds_ip (r : CompileResult) : (compileEnds r c).ip = c.ip := rfl
@[simp] theorem compileEnds_ds (r : CompileResult) : (compileEnds r c).ds = c.ds := rfl
@[simp] theorem compileEnds_log (r : CompileResult) : (compileEnds r c).log = c.log := rfl
@[simp] theorem compileEnds_ts_compile (r : CompileResult) : (compileEnds r c).ts.compile = .idle := rfl
@[simp] theorem compileEnds_ts_last (r : CompileResult) : (compileEnds r c).ts.last = some r := rfl
@[simp] theorem compileEnds_ts_valid (r : CompileResult) : (compileEnds r c).ts.valid = c.ts.valid := rfl
@[simp] theorem compileEnds_ts_shadow (r : CompileResult) : (compileEnds r c).ts.shadow = c.ts.shadow := rfl
@[simp] theorem compileEnds_ts_map (r : CompileResult) : (compileEnds r c).ts.map = c.ts.map := rfl

@[simp] theorem closeLoad_wu : (closeLoad c).wu = c.wu := rfl
@[simp] theorem closeLoad_lu : (closeLoad c).lu = c.lu := rfl
@[simp] theorem closeLoad_ic : (closeLoad c).ic = c.ic := rfl
@[simp] theorem closeLoad_ip : (closeLoad c).ip = c.ip := rfl
@[simp] theorem closeLoad_ds : (closeLoad c).ds = c.ds := rfl
@[simp] theorem closeLoad_log : (closeLoad c).log = c.log := rfl
@[simp] theorem closeLoad_ts_window : (closeLoad c).ts.window = none := rfl
@[simp] theorem closeLoad_ts_valid : (closeLoad c).ts.valid = c.ts.valid := rfl
@[simp] theorem closeLoad_ts_compile : (closeLoad c).ts.compile = c.ts.compile := rfl
@[simp] theorem closeLoad_ts_shadow : (closeLoad c).ts.shadow = c.ts.shadow := rfl
@[simp] theorem closeLoad_ts_map : (closeLoad c).ts.map = c.ts.map := rfl
@[simp] theorem closeLoad_ts_lock : (closeLoad c).ts.lock = c.ts.lock := rfl
@[simp] theorem closeLoad_ts_dynamic : (closeLoad c).ts.dynamic = c.ts.dynamic := rfl

@[simp] theorem loadRecords_wu (w : LoadWindow) (rs : List Record) : (loadRecords w rs c).wu = c.wu := rfl
@[simp] theorem loadRecords_lu (w : LoadWindow) (rs : List Record) : (loadRecords w rs c).lu = c.lu := rfl
@[simp] theorem loadRecords_ic (w : LoadWindow) (rs : List Record) : (loadRecords w rs c).ic = c.ic := rfl
@[simp] theorem loadRecords_ip (w : LoadWindow) (rs : List Record) : (loadRecords w rs c).ip = c.ip := rfl
@[simp] theorem loadRecords_ds (w : LoadWindow) (rs : List Record) : (loadRecords w rs c).ds = c.ds := rfl
@[simp] theorem loadRecords_log (w : LoadWindow) (rs : List Record) : (loadRecords w rs c).log = c.log := rfl
@[simp] theorem loadRecords_ts_compile (w : LoadWindow) (rs : List Record) : (loadRecords w rs c).ts.compile = c.ts.compile := rfl
@[simp] theorem loadRecords_ts_valid (w : LoadWindow) (rs : List Record) : (loadRecords w rs c).ts.valid = c.ts.valid := rfl
@[simp] theorem loadRecords_ts_map (w : LoadWindow) (rs : List Record) : (loadRecords w rs c).ts.map = c.ts.map := rfl
@[simp] theorem loadRecords_ts_window (w : LoadWindow) (rs : List Record) : (loadRecords w rs c).ts.window = some { w with pointer := w.pointer + w.room rs.length } := rfl
@[simp] theorem loadRecords_ts_shadow (w : LoadWindow) (rs : List Record) : (loadRecords w rs c).ts.shadow = c.ts.shadow.writeRun w.table w.pointer (rs.take (w.room rs.length)) := rfl

@[simp] theorem countBad_nv (s : State) : (countBad s).nv = s.nv := rfl
@[simp] theorem countBad_core (s : State) : (countBad s).core = s.core := rfl
@[simp] theorem countBad_handler (s : State) : (countBad s).handler = s.handler := rfl
@[simp] theorem countBad_lines (s : State) : (countBad s).lines = s.lines := rfl
@[simp] theorem countBad_fresh (s : State) : (countBad s).fresh = s.fresh := rfl
@[simp] theorem countBad_pending (s : State) : (countBad s).pending = s.pending := rfl
@[simp] theorem countOverflow_nv (s : State) : (countOverflow s).nv = s.nv := rfl
@[simp] theorem countOverflow_core (s : State) : (countOverflow s).core = s.core := rfl
@[simp] theorem countOverflow_handler (s : State) : (countOverflow s).handler = s.handler := rfl
@[simp] theorem countOverflow_lines (s : State) : (countOverflow s).lines = s.lines := rfl
@[simp] theorem countOverflow_fresh (s : State) : (countOverflow s).fresh = s.fresh := rfl
@[simp] theorem countOverflow_pending (s : State) : (countOverflow s).pending = s.pending := rfl
@[simp] theorem countRefused_nv (s : State) : (countRefused s).nv = s.nv := rfl
@[simp] theorem countRefused_core (s : State) : (countRefused s).core = s.core := rfl
@[simp] theorem countRefused_handler (s : State) : (countRefused s).handler = s.handler := rfl
@[simp] theorem countRefused_lines (s : State) : (countRefused s).lines = s.lines := rfl
@[simp] theorem countRefused_fresh (s : State) : (countRefused s).fresh = s.fresh := rfl
@[simp] theorem countRefused_pending (s : State) : (countRefused s).pending = s.pending := rfl
@[simp] theorem deliver_nv (s : State) : (deliver s).nv = s.nv := rfl
@[simp] theorem deliver_handler (s : State) : (deliver s).handler = s.handler := rfl
@[simp] theorem deliver_lines (s : State) : (deliver s).lines = s.lines := rfl
@[simp] theorem deliver_fresh (s : State) : (deliver s).fresh = s.fresh := rfl
@[simp] theorem deliver_pending (s : State) : (deliver s).pending = s.pending := rfl
@[simp] theorem countBad_ring_badFrame (s : State) : (countBad s).ring.badFrame = satInc s.ring.badFrame := rfl
@[simp] theorem countBad_ring_overflow (s : State) : (countBad s).ring.overflow = s.ring.overflow := rfl
@[simp] theorem countBad_ring_refusedSource (s : State) : (countBad s).ring.refusedSource = s.ring.refusedSource := rfl
@[simp] theorem countBad_ring_buffers (s : State) : (countBad s).ring.buffers = s.ring.buffers := rfl
@[simp] theorem countBad_ring_answers (s : State) : (countBad s).ring.answers = s.ring.answers := rfl
@[simp] theorem countBad_ring_east (s : State) : (countBad s).ring.east = s.ring.east := rfl
@[simp] theorem countBad_ring_west (s : State) : (countBad s).ring.west = s.ring.west := rfl
@[simp] theorem countBad_ring_head (s : State) : (countBad s).ring.head = s.ring.head := rfl
@[simp] theorem countBad_ring_ownSequence (s : State) : (countBad s).ring.ownSequence = s.ring.ownSequence := rfl
@[simp] theorem countBad_ring_retired (s : State) : (countBad s).ring.retired = s.ring.retired := rfl
@[simp] theorem countBad_ring_bypass (s : State) : (countBad s).ring.bypass = s.ring.bypass := rfl
@[simp] theorem countOverflow_ring_badFrame (s : State) : (countOverflow s).ring.badFrame = s.ring.badFrame := rfl
@[simp] theorem countOverflow_ring_overflow (s : State) : (countOverflow s).ring.overflow = satInc s.ring.overflow := rfl
@[simp] theorem countOverflow_ring_refusedSource (s : State) : (countOverflow s).ring.refusedSource = s.ring.refusedSource := rfl
@[simp] theorem countOverflow_ring_buffers (s : State) : (countOverflow s).ring.buffers = s.ring.buffers := rfl
@[simp] theorem countOverflow_ring_answers (s : State) : (countOverflow s).ring.answers = s.ring.answers := rfl
@[simp] theorem countOverflow_ring_east (s : State) : (countOverflow s).ring.east = s.ring.east := rfl
@[simp] theorem countOverflow_ring_west (s : State) : (countOverflow s).ring.west = s.ring.west := rfl
@[simp] theorem countOverflow_ring_head (s : State) : (countOverflow s).ring.head = s.ring.head := rfl
@[simp] theorem countOverflow_ring_ownSequence (s : State) : (countOverflow s).ring.ownSequence = s.ring.ownSequence := rfl
@[simp] theorem countOverflow_ring_retired (s : State) : (countOverflow s).ring.retired = s.ring.retired := rfl
@[simp] theorem countOverflow_ring_bypass (s : State) : (countOverflow s).ring.bypass = s.ring.bypass := rfl
@[simp] theorem countRefused_ring_badFrame (s : State) : (countRefused s).ring.badFrame = s.ring.badFrame := rfl
@[simp] theorem countRefused_ring_overflow (s : State) : (countRefused s).ring.overflow = s.ring.overflow := rfl
@[simp] theorem countRefused_ring_refusedSource (s : State) : (countRefused s).ring.refusedSource = satInc s.ring.refusedSource := rfl
@[simp] theorem countRefused_ring_buffers (s : State) : (countRefused s).ring.buffers = s.ring.buffers := rfl
@[simp] theorem countRefused_ring_answers (s : State) : (countRefused s).ring.answers = s.ring.answers := rfl
@[simp] theorem countRefused_ring_east (s : State) : (countRefused s).ring.east = s.ring.east := rfl
@[simp] theorem countRefused_ring_west (s : State) : (countRefused s).ring.west = s.ring.west := rfl
@[simp] theorem countRefused_ring_head (s : State) : (countRefused s).ring.head = s.ring.head := rfl
@[simp] theorem countRefused_ring_ownSequence (s : State) : (countRefused s).ring.ownSequence = s.ring.ownSequence := rfl
@[simp] theorem countRefused_ring_retired (s : State) : (countRefused s).ring.retired = s.ring.retired := rfl
@[simp] theorem countRefused_ring_bypass (s : State) : (countRefused s).ring.bypass = s.ring.bypass := rfl

@[simp] theorem deliver_core_ts (s : State) : (deliver s).core.ts = s.core.ts := rfl
@[simp] theorem deliver_core_wu (s : State) : (deliver s).core.wu = s.core.wu := rfl
@[simp] theorem deliver_core_lu (s : State) : (deliver s).core.lu = s.core.lu := rfl
@[simp] theorem deliver_core_ic (s : State) : (deliver s).core.ic = s.core.ic := rfl
@[simp] theorem deliver_core_ip (s : State) : (deliver s).core.ip = s.core.ip := rfl
@[simp] theorem deliver_core_log (s : State) : (deliver s).core.log = s.core.log := rfl
@[simp] theorem deliver_core_ds_valves (s : State) : (deliver s).core.ds.valves = s.core.ds.valves := rfl
@[simp] theorem deliver_core_ds_slots (s : State) : (deliver s).core.ds.slots = s.core.ds.slots := rfl
@[simp] theorem deliver_core_ds_outbox (s : State) : (deliver s).core.ds.outbox = [] := rfl

/-! ### Non-volatile state -/

@[simp] theorem Nv.setBank_selector (nv : Nv) (id : BankId) (b : Bank) : (nv.setBank id b).selector = nv.selector := by
  cases id <;> rfl
@[simp] theorem Nv.setBank_generation (nv : Nv) (id : BankId) (b : Bank) :
    (nv.setBank id b).generation = nv.generation := by cases id <;> rfl
@[simp] theorem Nv.setBank_persistent (nv : Nv) (id : BankId) (b : Bank) :
    (nv.setBank id b).persistent = nv.persistent := by cases id <;> rfl
@[simp] theorem Nv.setBank_settings (nv : Nv) (id : BankId) (b : Bank) : (nv.setBank id b).settings = nv.settings := by
  cases id <;> rfl
@[simp] theorem Nv.bank_setBank_same (nv : Nv) (id : BankId) (b : Bank) : (nv.setBank id b).bank id = b := by
  cases id <;> rfl
@[simp] theorem Nv.bank_setBank_other (nv : Nv) (id : BankId) (b : Bank) :
    (nv.setBank id.other b).bank id = nv.bank id := by cases id <;> rfl
@[simp] theorem Nv.bank_other_setBank (nv : Nv) (id : BankId) (b : Bank) :
    (nv.setBank id b).bank id.other = nv.bank id.other := by cases id <;> rfl
@[simp] theorem Nv.setInactive_selector (nv : Nv) (b : Bank) : (nv.setInactive b).selector = nv.selector := by
  simp [Nv.setInactive]
@[simp] theorem Nv.setInactive_generation (nv : Nv) (b : Bank) : (nv.setInactive b).generation = nv.generation := by
  simp [Nv.setInactive]
@[simp] theorem Nv.setInactive_persistent (nv : Nv) (b : Bank) : (nv.setInactive b).persistent = nv.persistent := by
  simp [Nv.setInactive]
@[simp] theorem Nv.setInactive_settings (nv : Nv) (b : Bank) : (nv.setInactive b).settings = nv.settings := by
  simp [Nv.setInactive]
@[simp] theorem Nv.active_setInactive (nv : Nv) (b : Bank) : (nv.setInactive b).active = nv.active := by
  simp [Nv.active, Nv.setInactive]
@[simp] theorem Nv.inactive_setInactive (nv : Nv) (b : Bank) : (nv.setInactive b).inactive = b := by
  simp [Nv.inactive, Nv.setInactive]
@[simp] theorem BankId.other_other (id : BankId) : id.other.other = id := by cases id <;> rfl
@[simp] theorem Nv.swapped_settings (nv : Nv) : nv.swapped.settings = nv.settings := rfl
@[simp] theorem Nv.swapped_persistent (nv : Nv) : nv.swapped.persistent = nv.persistent := rfl
@[simp] theorem Nv.swapped_generation (nv : Nv) : nv.swapped.generation = succGeneration nv.generation := rfl
@[simp] theorem Nv.swapped_selector (nv : Nv) : nv.swapped.selector = nv.selector.other := rfl
@[simp] theorem Nv.swapped_active (nv : Nv) : nv.swapped.active = nv.inactive := by
  cases nv with | mk a b sel g p s => cases sel <;> rfl
@[simp] theorem Nv.swapped_inactive (nv : Nv) : nv.swapped.inactive = nv.active := by
  cases nv with | mk a b sel g p s => cases sel <;> rfl

/-! ### Ports -/

@[simp] theorem Ring.port_setPort_same (r : Ring) (p : Port) (x : PortState) : (r.setPort p x).port p = x := by
  cases p <;> rfl
@[simp] theorem Ring.port_setPort_other (r : Ring) (p : Port) (x : PortState) :
    (r.setPort p x).port p.other = r.port p.other := by cases p <;> rfl
@[simp] theorem Ring.port_other_setPort (r : Ring) (p : Port) (x : PortState) :
    (r.setPort p.other x).port p = r.port p := by cases p <;> rfl
@[simp] theorem Ring.setPort_badFrame (r : Ring) (p : Port) (x : PortState) : (r.setPort p x).badFrame = r.badFrame := by
  cases p <;> rfl
@[simp] theorem Ring.setPort_overflow (r : Ring) (p : Port) (x : PortState) : (r.setPort p x).overflow = r.overflow := by
  cases p <;> rfl
@[simp] theorem Ring.setPort_refusedSource (r : Ring) (p : Port) (x : PortState) : (r.setPort p x).refusedSource = r.refusedSource := by
  cases p <;> rfl
@[simp] theorem Ring.setPort_buffers (r : Ring) (p : Port) (x : PortState) : (r.setPort p x).buffers = r.buffers := by
  cases p <;> rfl
@[simp] theorem Ring.setPort_answers (r : Ring) (p : Port) (x : PortState) : (r.setPort p x).answers = r.answers := by
  cases p <;> rfl
@[simp] theorem Ring.setPort_head (r : Ring) (p : Port) (x : PortState) : (r.setPort p x).head = r.head := by
  cases p <;> rfl
@[simp] theorem Ring.setPort_ownSequence (r : Ring) (p : Port) (x : PortState) : (r.setPort p x).ownSequence = r.ownSequence := by
  cases p <;> rfl
@[simp] theorem Ring.setPort_retired (r : Ring) (p : Port) (x : PortState) : (r.setPort p x).retired = r.retired := by
  cases p <;> rfl
@[simp] theorem Ring.setPort_bypass (r : Ring) (p : Port) (x : PortState) : (r.setPort p x).bypass = r.bypass := by
  cases p <;> rfl

end Sys2Proof.Machine
end

