-- ==== Sys2Proof/Laws/Sparse.lean ====
section
/-! SUPPORT. Arrays by index: what a read gives after a write, and that every write keeps the canonical form. -/

namespace Sys2Proof.Machine

variable {α : Type}

@[simp] theorem Sparse.at?_nil (k : Nat) : Sparse.at? ([] : Sparse α) k = none := rfl

theorem Sparse.at?_put_same (m : Sparse α) (k : Nat) (v : α) : (m.put k v).at? k = some v := by
  induction m with
  | nil => simp [Sparse.put, Sparse.at?]
  | cons p rest ih =>
    obtain ⟨i, a⟩ := p
    simp only [Sparse.put]
    split
    · simp [Sparse.at?]
    · split
      · simp [Sparse.at?]
      · next h1 h2 => simp [Sparse.at?, show ¬ i = k by omega, ih]

theorem Sparse.at?_put_other (m : Sparse α) {k j : Nat} (v : α) (h : j ≠ k) : (m.put k v).at? j = m.at? j := by
  induction m with
  | nil => simp [Sparse.put, Sparse.at?, h.symm]
  | cons p rest ih =>
    obtain ⟨i, a⟩ := p
    simp only [Sparse.put]
    split
    · simp [Sparse.at?, h.symm]
    · split
      · next h1 h2 => subst h2; simp [Sparse.at?, h.symm]
      · simp [Sparse.at?, ih]

theorem Sparse.at?_del_same (m : Sparse α) (k : Nat) : (m.del k).at? k = none := by
  induction m with
  | nil => rfl
  | cons p rest ih =>
    obtain ⟨i, a⟩ := p
    simp only [Sparse.del]
    split
    · exact ih
    · next h => simp [Sparse.at?, h, ih]

theorem Sparse.at?_del_other (m : Sparse α) {k j : Nat} (h : j ≠ k) : (m.del k).at? j = m.at? j := by
  induction m with
  | nil => rfl
  | cons p rest ih =>
    obtain ⟨i, a⟩ := p
    simp only [Sparse.del]
    split
    · next e => subst e; simp [Sparse.at?, h.symm, ih]
    · simp [Sparse.at?, ih]

/-- A read gives what was written. -/
theorem Sparse.atD_putD_same [DecidableEq α] (m : Sparse α) (d : α) (k : Nat) (v : α) :
    (m.putD d k v).atD d k = v := by
  simp only [Sparse.putD, Sparse.atD]
  split
  · next h => simp [Sparse.at?_del_same, h]
  · simp [Sparse.at?_put_same]

/-- Every other index reads as before. -/
theorem Sparse.atD_putD_other [DecidableEq α] (m : Sparse α) (d : α) {k j : Nat} (v : α) (h : j ≠ k) :
    (m.putD d k v).atD d j = m.atD d j := by
  simp only [Sparse.putD, Sparse.atD]
  split
  · rw [Sparse.at?_del_other m h]
  · rw [Sparse.at?_put_other m v h]

theorem Sparse.risingFrom_mono {lo lo' : Nat} (m : Sparse α) (h : lo ≤ lo') (hm : m.risingFrom lo' = true) :
    m.risingFrom lo = true := by
  cases m with
  | nil => rfl
  | cons p rest =>
    obtain ⟨i, a⟩ := p
    simp only [Sparse.risingFrom, Bool.and_eq_true, decide_eq_true_eq] at hm ⊢
    exact ⟨by omega, hm.2⟩

theorem Sparse.risingFrom_put {lo : Nat} (m : Sparse α) (k : Nat) (v : α) (h : lo ≤ k) (hm : m.risingFrom lo = true) :
    (m.put k v).risingFrom lo = true := by
  induction m generalizing lo with
  | nil => simp [Sparse.put, Sparse.risingFrom, h]
  | cons p rest ih =>
    obtain ⟨i, a⟩ := p
    simp only [Sparse.risingFrom, Bool.and_eq_true, decide_eq_true_eq] at hm
    simp only [Sparse.put]
    split
    · next hk => simp [Sparse.risingFrom, h, hm.2]; omega
    · split
      · next h1 h2 => subst h2; simp [Sparse.risingFrom, h, hm.2]
      · next h1 h2 => simp [Sparse.risingFrom, hm.1]; exact ih (by omega) hm.2

theorem Sparse.risingFrom_del {lo : Nat} (m : Sparse α) (k : Nat) (hm : m.risingFrom lo = true) :
    (m.del k).risingFrom lo = true := by
  induction m generalizing lo with
  | nil => rfl
  | cons p rest ih =>
    obtain ⟨i, a⟩ := p
    simp only [Sparse.risingFrom, Bool.and_eq_true, decide_eq_true_eq] at hm
    simp only [Sparse.del]
    split
    · exact Sparse.risingFrom_mono _ (by omega) (ih hm.2)
    · simp [Sparse.risingFrom, hm.1, ih hm.2]

theorem Sparse.risingFrom_filter {lo : Nat} (m : Sparse α) (f : Nat × α → Bool) (hm : m.risingFrom lo = true) :
    Sparse.risingFrom lo (List.filter f m) = true := by
  induction m generalizing lo with
  | nil => rfl
  | cons p rest ih =>
    obtain ⟨i, a⟩ := p
    simp only [Sparse.risingFrom, Bool.and_eq_true, decide_eq_true_eq] at hm
    simp only [List.filter]
    split
    · simp [Sparse.risingFrom, hm.1, ih hm.2]
    · exact Sparse.risingFrom_mono _ (by omega) (ih hm.2)

theorem Sparse.risingFrom_map {β : Type} {lo : Nat} (m : Sparse α) (f : Nat × α → Nat × β) (hf : ∀ p, (f p).1 = p.1)
    (hm : m.risingFrom lo = true) : Sparse.risingFrom lo (List.map f m) = true := by
  induction m generalizing lo with
  | nil => rfl
  | cons p rest ih =>
    simp only [Sparse.risingFrom, Bool.and_eq_true, decide_eq_true_eq] at hm
    have := hf p
    simp only [List.map, Sparse.risingFrom, Bool.and_eq_true, decide_eq_true_eq]
    rw [this]
    exact ⟨hm.1, ih hm.2⟩

/-- Putting a value keeps the canonical form. -/
theorem Sparse.wf_put (m : Sparse α) (k : Nat) (v : α) (h : m.wf = true) : (m.put k v).wf = true :=
  Sparse.risingFrom_put m k v (Nat.zero_le k) h

/-- Removing an index keeps the canonical form. -/
theorem Sparse.wf_del (m : Sparse α) (k : Nat) (h : m.wf = true) : (m.del k).wf = true :=
  Sparse.risingFrom_del m k h

theorem Sparse.all_put (m : Sparse α) (k : Nat) (v : α) (f : Nat × α → Bool) (h : m.all f = true) (hv : f (k, v) = true) :
    (m.put k v).all f = true := by
  induction m with
  | nil => simp [Sparse.put, hv]
  | cons p rest ih =>
    obtain ⟨i, a⟩ := p
    simp only [List.all_cons, Bool.and_eq_true] at h
    simp only [Sparse.put]
    split
    · simp [hv, h.1]
      simpa using h.2
    · split
      · next h1 h2 => simp only [List.all_cons, hv, Bool.true_and]; exact h.2
      · simp only [List.all_cons, h.1, Bool.true_and]; exact ih h.2

theorem Sparse.all_del (m : Sparse α) (k : Nat) (f : Nat × α → Bool) (h : m.all f = true) :
    (m.del k).all f = true := by
  induction m with
  | nil => rfl
  | cons p rest ih =>
    obtain ⟨i, a⟩ := p
    simp only [List.all_cons, Bool.and_eq_true] at h
    simp only [Sparse.del]
    split
    · exact ih h.2
    · simp only [List.all_cons, h.1, Bool.true_and]; exact ih h.2

/-- Writing a value where unlisted entries read `d` keeps the canonical form. -/
theorem Sparse.wfD_putD [DecidableEq α] (m : Sparse α) (d : α) (k : Nat) (v : α) (h : m.wfD d = true) :
    (m.putD d k v).wfD d = true := by
  simp only [Sparse.wfD, Bool.and_eq_true] at h ⊢
  simp only [Sparse.putD]
  split
  · exact ⟨Sparse.wf_del m k h.1, Sparse.all_del m k _ h.2⟩
  · next hv => exact ⟨Sparse.wf_put m k v h.1, Sparse.all_put m k v _ h.2 (by simpa using hv)⟩

end Sys2Proof.Machine
end

