-- ==== Sys2Proof/Laws/Lists.lean ====
section
/-! SUPPORT. The lists the meanings sort, thin out or search: what is in them and in which order; and the saturating count. -/

namespace Sys2Proof.Machine

theorem satInc_eq (x : Word16) : satInc x = if x = 65535 then 65535 else x + 1 := by
  unfold satInc
  split
  · assumption
  · rfl

/-! ### Sorting -/

section

variable {α : Type} {before : α → α → Bool}

theorem perm_insertBy (f : α → α → Bool) (x : α) : ∀ xs : List α, (insertBy f x xs).Perm (x :: xs)
  | [] => .refl _
  | y :: ys => by
    unfold insertBy
    split
    · exact .refl _
    · exact ((perm_insertBy f x ys).cons y).trans (.swap x y ys)

theorem perm_sortBy (before : α → α → Bool) : ∀ xs : List α, (sortBy before xs).Perm xs
  | [] => .refl _
  | x :: xs => (perm_insertBy _ x _).trans ((perm_sortBy before xs).cons x)

theorem mem_sortBy {x : α} {xs : List α} : x ∈ sortBy before xs ↔ x ∈ xs := (perm_sortBy before xs).mem_iff

/-- Where "does not precede" is transitive and of two at least one does not precede the other, nothing in the sorted list
precedes what stands before it. -/
theorem pairwise_sortBy (trans : ∀ a b c, before b a = false → before c b = false → before c a = false)
    (total : ∀ a b, before a b = true → before b a = false) :
    ∀ xs : List α, (sortBy before xs).Pairwise fun a b => before b a = false
  | [] => .nil
  | x :: xs => by
    have insert : ∀ ys : List α, ys.Pairwise (fun a b => before b a = false) →
        (insertBy (fun a b => !before b a) x ys).Pairwise fun a b => before b a = false := by
      intro ys
      induction ys with
      | nil => exact fun _ => List.pairwise_singleton _ _
      | cons y ys ih =>
        intro h
        unfold insertBy
        split
        · next hb =>
          have hxy : before y x = false := by simpa using hb
          refine List.pairwise_cons.2 ⟨fun z hz => ?_, h⟩
          rcases List.mem_cons.1 hz with rfl | hz
          · exact hxy
          · exact trans _ _ _ hxy ((List.pairwise_cons.1 h).1 z hz)
        · next hb =>
          have hyx : before x y = false := total _ _ (by simpa using hb)
          refine List.pairwise_cons.2 ⟨fun z hz => ?_, ih (List.pairwise_cons.1 h).2⟩
          rcases List.mem_cons.1 ((perm_insertBy _ x ys).mem_iff.1 hz) with rfl | hz
          · exact hyx
          · exact (List.pairwise_cons.1 h).1 z hz
    exact insert _ (pairwise_sortBy trans total xs)

end

/-! ### Repeats -/

theorem mem_distinct {x : Nat} {xs : List Nat} : x ∈ distinct xs ↔ x ∈ xs := by
  induction xs with
  | nil => exact Iff.rfl
  | cons y ys ih =>
    unfold distinct
    simp only [List.mem_cons, List.mem_filter, ih, decide_eq_true_eq]
    by_cases e : x = y <;> simp [e]

theorem nodup_distinct : ∀ xs : List Nat, (distinct xs).Nodup
  | [] => List.nodup_nil
  | x :: xs => List.nodup_cons.2 ⟨by simp, (nodup_distinct xs).filter _⟩

/-! ### Arrays by index -/

/-- In an array whose indexes rise, what an index reads is what is listed there. -/
theorem Sparse.mem_iff_at? {α : Type} {m : Sparse α} {lo : Nat} (h : m.risingFrom lo = true) (k : Nat) (v : α) :
    (k, v) ∈ m ↔ m.at? k = some v := by
  induction m generalizing lo with
  | nil => simp [Sparse.at?]
  | cons p rest ih =>
    obtain ⟨i, a⟩ := p
    have hr : Sparse.risingFrom (i + 1) rest = true := by
      simp only [Sparse.risingFrom, Bool.and_eq_true] at h
      exact h.2
    have above : ∀ (l : Nat) (m : Sparse α), m.risingFrom l = true → ∀ q ∈ m, l ≤ q.1 := by
      intro l m
      induction m generalizing l with
      | nil => intro _ q hq; cases hq
      | cons q' m' ih' =>
        intro hm q hq
        simp only [Sparse.risingFrom, Bool.and_eq_true, decide_eq_true_eq] at hm
        rcases List.mem_cons.1 hq with rfl | hq
        · exact hm.1
        · have := ih' _ hm.2 q hq
          omega
    rw [List.mem_cons, Sparse.at?]
    split
    · next e =>
      subst e
      constructor
      · rintro (e | hm)
        · simp_all
        · exact absurd (above _ _ hr _ hm) (Nat.not_succ_le_self _)
      · intro e
        left
        simp_all
    · next e =>
      rw [← ih hr]
      constructor
      · rintro (e' | hm)
        · simp_all
        · exact hm
      · exact Or.inr

/-- The indexes of an array in canonical form rise strictly. -/
theorem Sparse.pairwise_indexes {α : Type} : ∀ (m : Sparse α) {lo : Nat}, m.risingFrom lo = true →
    (m.map Prod.fst).Pairwise (· < ·) ∧ ∀ k ∈ m.map Prod.fst, lo ≤ k
  | [], _, _ => ⟨.nil, by simp⟩
  | (i, _) :: rest, lo, h => by
    simp only [Sparse.risingFrom, Bool.and_eq_true, decide_eq_true_eq] at h
    obtain ⟨above, rise⟩ := Sparse.pairwise_indexes rest h.2
    refine ⟨List.pairwise_cons.2 ⟨rise, above⟩, fun k hk => ?_⟩
    rcases List.mem_cons.1 hk with rfl | hk
    · exact h.1
    · exact Nat.le_trans h.1 (Nat.le_of_succ_le (rise k hk))

/-- So do those of the entries that meet a condition. -/
theorem Sparse.pairwise_filter {α : Type} {m : Sparse α} (h : m.wf = true) (f : Nat × α → Bool) :
    ((m.filter f).map Prod.fst).Pairwise (· < ·) := (Sparse.pairwise_indexes _ (Sparse.risingFrom_filter m f h)).1

theorem Sparse.mem_iff_at?_of_wf {α : Type} {m : Sparse α} (h : m.wf = true) (k : Nat) (v : α) :
    (k, v) ∈ m ↔ m.at? k = some v := Sparse.mem_iff_at? h k v

theorem Sparse.mem_filter_indexes {α : Type} {m : Sparse α} (h : m.wf = true) (f : Nat × α → Bool) (k : Nat) :
    k ∈ (m.filter f).map Prod.fst ↔ ∃ v, m.at? k = some v ∧ f (k, v) = true := by
  simp only [List.mem_map, List.mem_filter, Prod.exists, exists_and_right, exists_eq_right, Sparse.mem_iff_at?_of_wf h]

/-! ### The lists of index records (02 R23, R24) -/

theorem Tables.mem_associationList {t : Tables} (h : t.associations.wf = true) (g a : Nat) :
    a ∈ t.associationList g ↔ ∃ r, t.associations.at? a = some r ∧ r.association.segment = g := by
  rw [associationList, Sparse.mem_filter_indexes h]
  simp only [beq_iff_eq]

/-- A rising list lies between its first and its last. -/
theorem between_of_pairwise : ∀ {rest : List Nat} {lo : Nat}, (lo :: rest).Pairwise (· < ·) → ∀ {k : Nat}, k ∈ lo :: rest →
    lo ≤ k ∧ k ≤ rest.getLastD lo
  | [], lo, _, k, hk => by
    rw [List.mem_singleton.1 hk]
    exact ⟨Nat.le_refl _, Nat.le_refl _⟩
  | x :: xs, lo, h, k, hk => by
    rw [List.getLastD_cons]
    rw [List.pairwise_cons] at h
    have up := between_of_pairwise h.2 List.mem_cons_self
    have lt := h.1 x List.mem_cons_self
    rcases List.mem_cons.1 hk with rfl | hk
    · exact ⟨Nat.le_refl _, by omega⟩
    · have := between_of_pairwise h.2 hk
      exact ⟨by omega, this.2⟩

theorem getLastD_mem : ∀ (rest : List Nat) (lo : Nat), rest.getLastD lo ∈ lo :: rest
  | [], _ => List.mem_singleton.2 rfl
  | x :: xs, _ => by
    rw [List.getLastD_cons]
    exact List.mem_cons_of_mem _ (getLastD_mem xs x)

/-- A sensor's run: every present association between the lowest and the highest that name the sensor. -/
theorem Tables.mem_run {t : Tables} (h : t.associations.wf = true) (i a : Nat) (r : Record) :
    (a, r) ∈ t.run i ↔ t.associations.at? a = some r
      ∧ (∃ lo q, lo ≤ a ∧ t.associations.at? lo = some q ∧ q.association.sensor = i)
      ∧ ∃ hi q, a ≤ hi ∧ t.associations.at? hi = some q ∧ q.association.sensor = i := by
  have names : ∀ k, (k ∈ (t.associations.filter fun p => p.2.association.sensor == i).map Prod.fst) ↔
      ∃ q, t.associations.at? k = some q ∧ q.association.sensor = i := fun k => by
    rw [Sparse.mem_filter_indexes h]
    simp only [beq_iff_eq]
  have rise := Sparse.pairwise_filter h fun p : Nat × Record => p.2.association.sensor == i
  unfold run sensorIndex
  generalize (t.associations.filter fun p : Nat × Record => p.2.association.sensor == i).map Prod.fst = l at names rise
  cases l with
  | nil =>
    refine ⟨fun e => absurd e List.not_mem_nil, ?_⟩
    rintro ⟨_, ⟨lo, q, _, at_lo, eq⟩, _⟩
    exact absurd ((names lo).2 ⟨q, at_lo, eq⟩) List.not_mem_nil
  | cons lo rest =>
    simp only [List.mem_filter, Sparse.mem_iff_at?_of_wf h, Bool.and_eq_true, decide_eq_true_eq]
    refine and_congr_right fun _ => ⟨fun ⟨above, below⟩ => ?_, fun ⟨⟨x, q, le_a, hx⟩, ⟨y, q', a_le, hy⟩⟩ => ?_⟩
    · obtain ⟨q, hq⟩ := (names lo).1 List.mem_cons_self
      obtain ⟨q', hq'⟩ := (names _).1 (getLastD_mem rest lo)
      exact ⟨⟨lo, q, above, hq⟩, _, q', below, hq'⟩
    · have := between_of_pairwise rise ((names x).2 ⟨q, hx⟩)
      have := between_of_pairwise rise ((names y).2 ⟨q', hy⟩)
      omega

/-! ### Listing segments for recomputation (05 R81) -/

@[simp] theorem markDirty_nil (c : Core) : markDirty [] c = c := by simp [markDirty, distinct]

theorem markDirty_listed {g : Nat} {gs : List Nat} {c : Core} (h : g ∈ c.lu.dirty) :
    markDirty (g :: gs) c = markDirty gs c := by
  unfold markDirty
  simp only [distinct]
  congr 3
  rw [List.filter_cons_of_neg (by simpa using h), List.filter_filter]
  refine List.filter_congr fun x _ => ?_
  by_cases e : x = g
  · subst e
    simp [h]
  · simp [e]

theorem markDirty_new {g : Nat} {gs : List Nat} {c : Core} (h : g ∉ c.lu.dirty) :
    markDirty (g :: gs) c = markDirty gs { c with lu := { c.lu with dirty := c.lu.dirty ++ [g] } } := by
  unfold markDirty
  simp only [distinct]
  rw [List.filter_cons_of_pos (by simpa using h), List.filter_filter, List.append_assoc]
  simp only [List.cons_append, List.nil_append]
  congr 5
  funext x
  by_cases e : x = g
  · subst e
    simp
  · simp [e]

end Sys2Proof.Machine
end

