-- ==== Sys2Proof/Laws/Moves.lean ====
section
/-! SUPPORT. What an event can do inside the deciding blocks: every operation it sets off is a run of a few kinds of update, so
a property that each kind keeps, every such operation keeps. -/

namespace Sys2Proof.Machine

/-- How a channel context may change: its baseline and its deviation come into range, or do not leave it. -/
def ChannelStep (old new : Channel) : Prop :=
  (new.baseline ≤ 1048560 ∨ new.baseline ≤ old.baseline) ∧ (new.deviation ≤ 4095 ∨ new.deviation ≤ old.deviation)

/-- What no change of a live incident's record touches (06 R102). -/
def SameIncident (i j : Incident) : Prop :=
  j.number = i.number ∧ j.burst = i.burst ∧ j.zone = i.zone ∧ j.cls = i.cls ∧ j.cause = i.cause ∧ j.score = i.score
    ∧ j.order = i.order

/-- How a place may be marked: by what its check code shows, from SOUND or from CORRECTED (02 R29). -/
def MarkStep (nv : Nv) (p : Place) (m : Mark) (c : Core) : Prop :=
  (m = .corrected ∧ nv.active.wrongAt p = some .one ∧ markAt c p = none)
    ∨ (m = .poisoned ∧ nv.active.wrongAt p = some .two ∧ markAt c p ≠ some .poisoned)

/-- The kinds of update of an event on a non-volatile state, and their runs. -/
inductive Moves (nv : Nv) : Core → Core → Prop where
  | refl (c : Core) : Moves nv c c
  | trans {a b c : Core} (h : Moves nv a b) (k : Moves nv b c) : Moves nv a c
  | notify (kind : NoticeKind) (n v g code : Nat) (c : Core) : Moves nv c (notify kind n v g code c)
  | notifyTableError (v g code : Nat) (c : Core) : Moves nv c (notifyTableError v g code c)
  | beginPart (c : Core) : Moves nv c (beginPart c)
  | setMark (p : Place) (m : Mark) (c : Core) (h : MarkStep nv p m c) : Moves nv c (setMark p m c)
  | correct (c : Core) : Moves nv c { c with ts := { c.ts with corrections := satInc c.ts.corrections } }
  | setChannel (i : Nat) (ch : Channel) (c : Core) (h : ChannelStep (channelOf i c) ch) : Moves nv c (setChannel i ch c)
  | setScore (g n : Nat) (c : Core) (h : n ≤ 65535) : Moves nv c (setScore g n c)
  | setWindow (z : Nat) (w : Window) (c : Core) : Moves nv c (setWindow z w c)
  | setDirty (gs : List Nat) (c : Core) : Moves nv c { c with lu := { c.lu with dirty := gs } }
  | eachIncident (f : Nat × Incident → Incident) (hf : ∀ p, SameIncident p.2 (f p)) (raises rotations : Nat) (c : Core) :
      Moves nv c { c with ic := { c.ic with table := c.ic.table.map fun p => (p.1, f p)
                                            raises := raises, rotations := rotations } }
  | newIncident (e : Nat) (i : Incident) (next raises : Nat) (picks : Nat) (c : Core) (h : e ∈ freeEntries c) :
      Moves nv c { c with ic := { c.ic with table := c.ic.table.put e i, nextNumber := next, raises := raises
                                            picks := picks } }
  | remove (n : Nat) (c : Core) : Moves nv c (removeIncident n c)
  | renumber (c : Core) : Moves nv c (renumberOrders c)
  | levelAlert (c : Core) : Moves nv c (levelAlert c)
  | plan (i : Incident) (kind : PlanKind) (c : Core) : Moves nv c (startPlan nv i kind c)
  | join (n : Nat) (c : Core) : Moves nv c (joinQueue n c)
  | dropQueued (q : List Nat) (c : Core) (h : q.Sublist c.ip.queue) :
      Moves nv c { c with ip := { c.ip with queue := q } }
  | setValve (v : Nat) (x : ValveStatus) (c : Core) (h : x.faults ≤ 255 ∨ x.faults ≤ (valveOf v c).faults) :
      Moves nv c (setValve v x c)
  | setSlot (k : Nat) (m : Motion) (c : Core) : Moves nv c (setSlot k m c)
  | clearSlot (k : Nat) (c : Core) : Moves nv c (clearSlot k c)
  | handDrive (d : Drive) (c : Core) : Moves nv c (handDrive d c)

namespace Moves

variable {nv : Nv} {a c : Core}

theorem foldl {β : Type} {f : Core → β → Core} (hf : ∀ {c : Core} (x : β), Moves nv a c → Moves nv a (f c x)) :
    ∀ (xs : List β) {c : Core}, Moves nv a c → Moves nv a (xs.foldl f c)
  | [], _, h => h
  | x :: xs, _, h => foldl hf xs (hf x h)

/-! ### Operations of Ops -/

theorem notify_of (h : Moves nv a c) (kind : NoticeKind) (n v g code : Nat) : Moves nv a (Machine.notify kind n v g code c) :=
  h.trans (.notify ..)

theorem notifyTableError_of (h : Moves nv a c) (v g code : Nat) : Moves nv a (Machine.notifyTableError v g code c) :=
  h.trans (.notifyTableError ..)

theorem beginPart_of (h : Moves nv a c) : Moves nv a (Machine.beginPart c) := h.trans (.beginPart _)

theorem setMark_of (h : Moves nv a c) (p : Place) (m : Mark) (hm : MarkStep nv p m c) :
    Moves nv a (Machine.setMark p m c) := h.trans (.setMark _ _ _ hm)

theorem markDirty_of (h : Moves nv a c) (gs : List Nat) : Moves nv a (markDirty gs c) := h.trans (.setDirty _ c)

theorem setWindow_of (h : Moves nv a c) (z : Nat) (w : Window) : Moves nv a (Machine.setWindow z w c) := h.trans (.setWindow ..)

theorem clearSlot_of (h : Moves nv a c) (k : Nat) : Moves nv a (Machine.clearSlot k c) := h.trans (.clearSlot ..)

theorem setSlot_of (h : Moves nv a c) (k : Nat) (m : Motion) : Moves nv a (Machine.setSlot k m c) := h.trans (.setSlot ..)

theorem handDrive_of (h : Moves nv a c) (d : Drive) : Moves nv a (Machine.handDrive d c) := h.trans (.handDrive ..)

theorem levelAlert_of (h : Moves nv a c) : Moves nv a (Machine.levelAlert c) := h.trans (.levelAlert _)

theorem setChannel_of (h : Moves nv a c) (i : Nat) (ch : Channel) (hs : ChannelStep (channelOf i c) ch) :
    Moves nv a (Machine.setChannel i ch c) := h.trans (.setChannel _ _ _ hs)

theorem setValve_of (h : Moves nv a c) (v : Nat) (x : ValveStatus)
    (hs : x.faults ≤ 255 ∨ x.faults ≤ (valveOf v c).faults) : Moves nv a (Machine.setValve v x c) :=
  h.trans (.setValve _ _ _ hs)

theorem changeIncident_of (h : Moves nv a c) (n : Nat) (f : Incident → Incident) 
    (hf : ∀ i, SameIncident i (f i) := by intro _; exact ⟨rfl, rfl, rfl, rfl, rfl, rfl, rfl⟩) :
    Moves nv a (changeIncident n f c) := by
  have e : changeIncident n f c =
      { c with ic := { c.ic with
          table := c.ic.table.map fun p => (p.1, if p.2.number = n then f p.2 else p.2)
          raises := c.ic.raises, rotations := c.ic.rotations } } := by
    simp only [changeIncident]
    congr 2
    apply List.map_congr_left
    rintro ⟨i, x⟩ _
    split <;> rfl
  rw [e]
  refine h.trans (.eachIncident (fun p => if p.2.number = n then f p.2 else p.2) ?_ _ _ c)
  intro p
  split
  · exact hf _
  · exact ⟨rfl, rfl, rfl, rfl, rfl, rfl, rfl⟩

theorem tableError_of (h : Moves nv a c) (p : Place) (k : Nat) : Moves nv a (tableError p k c) := by
  unfold tableError
  cases p.area <;> exact h.notifyTableError_of ..

theorem touchPlace_of (nv : Nv) (h : Moves nv a c) (p : Place) : Moves nv a (touchPlace nv p c) := by
  unfold touchPlace
  split
  · exact h
  · exact h
  · exact h
  · next hw hm => exact tableError_of ((h.setMark_of p .corrected (.inl ⟨rfl, hw, hm⟩)).trans (.correct _)) p 1
  · next hw hp =>
    exact tableError_of ((h.setMark_of p .poisoned (.inr ⟨rfl, hw, hp⟩)).markDirty_of _) p 2

theorem touchEntry_of (nv : Nv) (h : Moves nv a c) (t : TableName) (i : Nat) : Moves nv a (touchEntry nv t i c) := by
  unfold touchEntry
  split
  · exact h.touchPlace_of ..
  · exact h

theorem touchIndex_of (nv : Nv) (h : Moves nv a c) (x : Area) (i : Nat) : Moves nv a (touchIndex nv x i c) := by
  unfold touchIndex
  split
  · exact h.touchPlace_of ..
  · exact h

/-! ### Scores and windows -/

theorem touchTerm_of (nv : Nv) (h : Moves nv a c) (i : Nat) : Moves nv a (touchTerm nv c i) := by
  unfold touchTerm
  dsimp only
  split
  · split
    · exact (h.touchEntry_of ..).touchEntry_of ..
    · exact h.touchEntry_of ..
  · exact h.touchEntry_of ..
  · exact h.touchEntry_of ..

theorem touchSegment_of (nv : Nv) (h : Moves nv a c) (g : Nat) : Moves nv a (touchSegment nv g c) := by
  have h1 : Moves nv a (touchIndex nv .segmentIndex g (touchEntry nv .segment g c)) := (h.touchEntry_of ..).touchIndex_of ..
  unfold touchSegment
  dsimp only
  split
  · exact h1
  · exact foldl (fun x hx => hx.touchTerm_of nv x) _ h1

theorem scoreNow_le (nv : Nv) (g : Nat) (c : Core) : scoreNow nv g c ≤ 65535 := by
  unfold scoreNow
  split
  · split
    · exact Nat.zero_le _
    · exact Nat.min_le_left _ _
  · exact Nat.zero_le _
  · exact Nat.zero_le _

theorem rescore_of (nv : Nv) (h : Moves nv a c) (g : Nat) : Moves nv a (rescore nv g c) :=
  (h.touchSegment_of nv g).trans (.setScore _ _ _ (scoreNow_le ..))

theorem testSegment_of (nv : Nv) (h : Moves nv a c) (g : Nat) : Moves nv a (testSegment nv c g) := by
  unfold testSegment
  dsimp only
  split
  · split
    · exact (h.touchEntry_of ..).setWindow_of ..
    · exact h.touchEntry_of ..
  · exact h.touchEntry_of ..
  · exact h.touchEntry_of ..

theorem testZone_of (nv : Nv) (h : Moves nv a c) (z : Nat) : Moves nv a (testZone nv z c) :=
  foldl (fun x hx => hx.testSegment_of nv x) _ h

theorem updateScores_of (nv : Nv) : ∀ (n : Nat) {c : Core}, Moves nv a c → Moves nv a (updateScores nv n c)
  | 0, _, h => h
  | n + 1, c, h => by
    unfold updateScores
    split
    · exact h
    · exact updateScores_of nv n
        (foldl (fun x hx => (hx.rescore_of nv x).testSegment_of nv x) _ (h.trans (.setDirty [] c)))

theorem luUpdate_of (nv : Nv) (h : Moves nv a c) : Moves nv a (luUpdate nv c) := updateScores_of nv _ h

theorem touchRun_of (nv : Nv) (h : Moves nv a c) (i : Nat) : Moves nv a (touchRun nv i c) := by
  have h1 : Moves nv a (touchIndex nv .sensorIndex i (touchEntry nv .sensor i c)) := (h.touchEntry_of ..).touchIndex_of ..
  unfold touchRun
  dsimp only
  split
  · split
    · exact h1
    · exact (foldl (fun x hx => hx.touchEntry_of ..) _ h1).markDirty_of _
  · exact h1
  · exact h1

end Moves

end Sys2Proof.Machine
end

