-- ==== Sys2Proof/Laws/MovesIncidents.lean ====
section
/-! SUPPORT. The operations of Incidents are runs of the updates of Moves. -/

namespace Sys2Proof.Machine

/-- A change of a record that keeps what no change touches. -/
theorem SameIncident.of_rfl {i j : Incident} (h1 : j.number = i.number) (h2 : j.burst = i.burst) (h3 : j.zone = i.zone)
    (h4 : j.cls = i.cls) (h5 : j.cause = i.cause) (h6 : j.score = i.score) (h7 : j.order = i.order) : SameIncident i j :=
  ⟨h1, h2, h3, h4, h5, h6, h7⟩

/-- A channel context whose baseline and deviation are kept. -/
theorem ChannelStep.kept {old new : Channel} (hb : new.baseline = old.baseline) (hd : new.deviation = old.deviation) :
    ChannelStep old new := ⟨.inr (Nat.le_of_eq hb), .inr (Nat.le_of_eq hd)⟩

/-- A channel context whose baseline and deviation become 0. -/
theorem ChannelStep.zero {old new : Channel} (hb : new.baseline = 0) (hd : new.deviation = 0) : ChannelStep old new :=
  ⟨.inl (by omega), .inl (by omega)⟩

namespace Moves

variable {nv : Nv} {a c : Core}

theorem reportState_of (h : Moves nv a c) (n : Nat) (st : IncidentState) : Moves nv a (reportState n st c) := by
  unfold reportState
  refine levelAlert_of ?_
  split
  · exact h.notify_of ..
  · exact h

theorem changeState_of (h : Moves nv a c) (n : Nat) (st : IncidentState) : Moves nv a (changeState n st c) :=
  (h.changeIncident_of n _).reportState_of n st

theorem leaveList_of (h : Moves nv a c) (n i : Nat) (why : Departure) : Moves nv a (leaveList n i why c) := by
  unfold leaveList
  dsimp only
  split
  · split
    · exact ((h.changeIncident_of n _).changeIncident_of n _).changeState_of ..
    · exact h.changeIncident_of n _
  · exact h.changeIncident_of n _

theorem inhibitChannel_of (nv : Nv) (h : Moves nv a c) (i : Nat) : Moves nv a (inhibitChannel nv c i) := by
  unfold inhibitChannel
  dsimp only
  split
  · exact (h.setChannel_of i _ (by exact .kept rfl rfl)).leaveList_of ..
  · exact (h.setChannel_of i _ (by exact .kept rfl rfl)).touchRun_of ..
  · exact h.setChannel_of i _ (by exact .kept rfl rfl)

theorem inhibitSegment_of (nv : Nv) (h : Moves nv a c) (g : Nat) : Moves nv a (inhibitSegment nv c g) :=
  foldl (fun x hx => hx.inhibitChannel_of nv x) _ h

theorem releaseChannel_of (h : Moves nv a c) (i : Nat) : Moves nv a (releaseChannel c i) :=
  h.setChannel_of i _ (by exact .zero rfl rfl)

theorem releaseSegment_of (h : Moves nv a c) (g : Nat) : Moves nv a (releaseSegment c g) :=
  foldl (fun x hx => hx.releaseChannel_of x) _ h

theorem returnChannel_of (nv : Nv) (h : Moves nv a c) (i : Nat) : Moves nv a (returnChannel nv c i) :=
  (h.setChannel_of i _ (by exact .kept rfl rfl)).touchRun_of ..

theorem startPlan_of (nv : Nv) (h : Moves nv a c) (i : Incident) (k : PlanKind) : Moves nv a (startPlan nv i k c) :=
  h.trans (.plan ..)

theorem dropQueued_of (h : Moves nv a c) {q : List Nat} (hq : q.Sublist c.ip.queue) :
    Moves nv a { c with ip := { c.ip with queue := q } } := h.trans (.dropQueued q c hq)

theorem admission_of (nv : Nv) (h : Moves nv a c) : Moves nv a (admission nv c) := by
  unfold admission
  split
  · exact h
  · split
    · exact h
    · split
      · next o rest e =>
        have h1 : Moves nv a { c with ip := { c.ip with queue := rest } } :=
          h.dropQueued_of (by rw [e]; exact List.sublist_cons_self o rest)
        dsimp only
        split
        · exact h1.startPlan_of ..
        · exact h1
      · split
        · exact (h.changeState_of ..).startPlan_of ..
        · exact h

theorem joinQueue_of (h : Moves nv a c) (n : Nat) : Moves nv a (joinQueue n c) := h.trans (.join ..)

theorem queueReplan_of (nv : Nv) (h : Moves nv a c) (n : Nat) : Moves nv a (queueReplan nv n c) :=
  (h.joinQueue_of n).admission_of nv

theorem withdrawReplan_of (h : Moves nv a c) (o : Nat) : Moves nv a (withdrawReplan o c) :=
  h.dropQueued_of List.filter_sublist

theorem renumberOrders_of (h : Moves nv a c) : Moves nv a (renumberOrders c) := h.trans (.renumber _)

theorem removeIncident_of (h : Moves nv a c) (n : Nat) : Moves nv a (removeIncident n c) := h.trans (.remove ..)

theorem nameWitness_of (nv : Nv) (h : Moves nv a c) (n g i : Nat) : Moves nv a (nameWitness nv n g c i) := by
  unfold nameWitness
  dsimp only
  split
  · split
    · exact (h.touchEntry_of ..).touchEntry_of ..
    · split
      · exact ((((h.touchEntry_of ..).touchEntry_of ..).setChannel_of _ _ (by exact .kept rfl rfl)).changeIncident_of _ _).touchRun_of ..
      · exact (h.touchEntry_of ..).touchEntry_of ..
  · exact h.touchEntry_of ..
  · exact h.touchEntry_of ..

theorem attributeWitnesses_of (nv : Nv) (h : Moves nv a c) (n g : Nat) : Moves nv a (attributeWitnesses nv n g c) := by
  unfold attributeWitnesses
  dsimp only
  split
  · exact h.touchIndex_of ..
  · exact foldl (fun x hx => hx.nameWitness_of nv n g x) _ (h.touchIndex_of ..)

theorem freeEntries_renumberOrders (c : Core) : freeEntries (renumberOrders c) = freeEntries c := by
  have key : ∀ (t : Sparse Incident) (f : Nat × Incident → Incident) (e : Nat),
      Sparse.has (t.map fun p => (p.1, f p)) e = Sparse.has t e := by
    intro t f e
    induction t with
    | nil => rfl
    | cons p rest ih =>
      obtain ⟨i, x⟩ := p
      simp only [List.map, Sparse.has, Sparse.at?] at ih ⊢
      split
      · rfl
      · exact ih
  unfold renumberOrders
  split
  · rfl
  · simp only [freeEntries, key]

theorem pickEntry_free {c : Core} {e n : Nat} (h : pickEntry c = some (e, n)) : e ∈ freeEntries c := by
  unfold pickEntry at h
  split at h
  · simp at h
  · next x xs hx =>
    simp only [Option.some.injEq, Prod.mk.injEq] at h
    rw [hx, ← h.1]
    have : Config.freeEntryChoice c.ic.picks % (xs.length + 1) < (x :: xs).length := by
      simpa using Nat.mod_lt _ (Nat.succ_pos xs.length)
    rw [List.getD_eq_getElem?_getD, List.getElem?_eq_getElem this]
    exact List.getElem_mem this

theorem raiseIncident_of (nv : Nv) (h : Moves nv a c) (g : Nat) (r : SegmentRecord) (k : RaiseCause) (score : Nat) :
    Moves nv a (raiseIncident nv g r k score c) := by
  unfold raiseIncident
  split
  · exact h
  · next e ps he =>
    dsimp only
    have hf : e ∈ freeEntries (renumberOrders c) := by rw [freeEntries_renumberOrders]; exact pickEntry_free he
    have h1 := h.renumberOrders_of.trans (.newIncident e
      (Machine.newIncident (raiseNumber c) g ((renumberOrders c).ic.raises + 1) r k score) (succNumber (raiseNumber c))
      ((renumberOrders c).ic.raises + 1) ps (renumberOrders c) hf)
    exact (levelAlert_of (((h1.inhibitSegment_of nv g).attributeWitnesses_of nv _ g).luUpdate_of nv |>.notify_of ..)).admission_of nv

theorem closeWindow_of (nv : Nv) (h : Moves nv a c) (z : Nat) : Moves nv a (closeWindow nv z c) :=
  (h.setWindow_of z .closed).testZone_of nv z

theorem chooseIn_of (nv : Nv) (h : Moves nv a c) (z : Nat) : Moves nv a (chooseIn nv z c) := by
  have h1 : Moves nv a (luUpdate nv ((presentIn nv .segment c).foldl (fun c g => touchEntry nv .segment g c) c)) :=
    (foldl (f := fun c g => touchEntry nv .segment g c) (fun x hx => hx.touchEntry_of nv _ x) _ h).luUpdate_of nv
  unfold chooseIn
  dsimp only
  split
  · exact (h1.notify_of ..).closeWindow_of ..
  · split
    · split
      · exact (h1.notify_of ..).closeWindow_of ..
      · split
        · exact (h1.setWindow_of ..).notify_of ..
        · exact (h1.raiseIncident_of ..).closeWindow_of ..
    · exact h1
    · exact h1

theorem rerunZone_of (nv : Nv) (h : Moves nv a c) (z : Nat) : Moves nv a (rerunZone nv c z) :=
  (h.beginPart_of.setWindow_of z .closed).chooseIn_of nv z

theorem rerunDeferred_of (nv : Nv) (h : Moves nv a c) : Moves nv a (rerunDeferred nv c) :=
  foldl (fun z hz => hz.rerunZone_of nv z) _ h

theorem endIncident_of (nv : Nv) (h : Moves nv a c) (n : Nat) : Moves nv a (endIncident nv n c) := by
  unfold endIncident
  split
  · exact h
  · dsimp only
    refine rerunDeferred_of nv (levelAlert_of (notify_of ?_ ..))
    refine foldl (fun x hx => hx.testSegment_of nv x) _ (luUpdate_of nv ?_)
    refine foldl (fun x hx => hx.releaseSegment_of x) _ ?_
    refine foldl (fun x hx => hx.returnChannel_of nv x) _ ?_
    exact h.beginPart_of.removeIncident_of n

theorem completionTest_of (nv : Nv) (h : Moves nv a c) (n : Nat) : Moves nv a (completionTest nv n c) := by
  unfold completionTest
  split
  · exact h
  · split
    · split
      · exact (h.changeIncident_of n _).changeState_of ..
      · exact (h.changeIncident_of n _).changeState_of ..
    · exact h

theorem tellFault_of (nv : Nv) (h : Moves nv a c) (n : Nat) : Moves nv a (tellFault nv n c) := by
  unfold tellFault
  split
  · exact h
  · split
    · exact h.queueReplan_of ..
    · exact h.queueReplan_of ..
    · exact h.changeIncident_of n _
    · exact h

theorem giveUpClaim_of (h : Moves nv a c) (v : Nat) : Moves nv a (giveUpClaim c v) :=
  h.setValve_of v _ (by exact .inr (Nat.le_refl _))

theorem giveUpClaims_of (h : Moves nv a c) (n : Nat) : Moves nv a (giveUpClaims n c) := by
  unfold giveUpClaims
  split
  · exact h
  · exact foldl (fun x hx => hx.giveUpClaim_of x) _ h

theorem reopenScan_of (nv : Nv) (n : Nat) (vs : List Nat) (e : ClosureEntry) (h : Moves nv a c) :
    Moves nv a (reopenScan nv n (vs, c) e).2 := by
  have h1 : Moves nv a (touchEntry nv .valve e.valve (Machine.beginPart c)) := h.beginPart_of.touchEntry_of ..
  unfold reopenScan
  dsimp only
  repeat' split
  all_goals first | exact h1 | exact h1.notify_of ..

theorem reopenScans_of (nv : Nv) (n : Nat) : ∀ (es : List ClosureEntry) (acc : List Nat × Core), Moves nv a acc.2 →
    Moves nv a (es.foldl (reopenScan nv n) acc).2
  | [], _, h => h
  | e :: es, (vs, _), h => reopenScans_of nv n es _ (reopenScan_of nv n vs e h)

theorem reopenList_of (nv : Nv) (h : Moves nv a c) (n : Nat) : Moves nv a (reopenList nv n c).2 := by
  unfold reopenList
  split
  · exact h
  · exact reopenScans_of nv n _ _ h

theorem startReopen_of (nv : Nv) (h : Moves nv a c) (n : Nat) (vs : List Nat) : Moves nv a (startReopen nv n vs c) := by
  unfold startReopen
  split
  · exact h.endIncident_of ..
  · exact h.changeIncident_of n _

theorem buildReopen_of (nv : Nv) (h : Moves nv a c) (n : Nat) : Moves nv a (buildReopen nv n c) :=
  (h.reopenList_of nv n).startReopen_of nv n _

theorem enterRestoring_of (nv : Nv) (h : Moves nv a c) (n : Nat) : Moves nv a (enterRestoring nv n c) := by
  unfold enterRestoring
  split
  · exact h
  · have h1 := ((h.changeIncident_of n (fun x => { x with
      state := .restoring, timer := none, releaseRequested := false, owed := false
      closure := x.closure.map fun e => if e.progress = .queued then { e with progress := .skipped } else e })).withdrawReplan_of
        ‹Incident›.order).giveUpClaims_of n
    dsimp only
    split
    · exact h1.reportState_of ..
    · exact ((h1.reopenList_of nv n).reportState_of ..).startReopen_of ..

theorem afterEntry_of (nv : Nv) (h : Moves nv a c) (n : Nat) : Moves nv a (afterEntry nv n c) := by
  unfold afterEntry
  split
  · exact h
  · split
    · exact h.completionTest_of ..
    · split
      · exact h
      · exact h.changeState_of ..
    · split
      · exact h
      · split
        · exact h.buildReopen_of ..
        · split
          · exact h.endIncident_of ..
          · exact h
    · exact h

end Moves

end Sys2Proof.Machine
end

