-- ==== Sys2Proof/Laws/MovesDrive.lean ====
section
/-! SUPPORT. The operations of Drive are runs of the updates of Moves. -/

namespace Sys2Proof.Machine.Moves

open Sys2Proof.Machine

variable {nv : Nv} {a c : Core}

theorem setProgress_of (h : Moves nv a c) (n v : Nat) (x : Action) (p : Progress) : Moves nv a (setProgress n v x p c) := by
  unfold setProgress
  cases x <;> exact h.changeIncident_of n _

theorem faultEntry_of (nv : Nv) (h : Moves nv a c) (n v : Nat) (x : Action) (k : FaultCause) :
    Moves nv a (faultEntry nv n v x k c) := by
  have h1 : Moves nv a
      (Machine.beginPart (Machine.notify .valveFault n v Config.none16 k.code (setProgress n v x (.faulted k) c))) :=
    ((h.setProgress_of ..).notify_of ..).beginPart_of
  unfold faultEntry
  dsimp only
  cases x
  · exact (h1.tellFault_of ..).afterEntry_of ..
  · exact h1.afterEntry_of ..

theorem endEntry_of (nv : Nv) (h : Moves nv a c) (n v : Nat) (x : Action) (p : Progress) :
    Moves nv a (endEntry nv n v x p c) := (h.setProgress_of ..).afterEntry_of ..

theorem renumberKeys_of (h : Moves nv a c) : Moves nv a (renumberKeys c) := by
  unfold renumberKeys
  dsimp only
  split
  · exact h
  · exact h.trans (.eachIncident
      (fun p => { p.2 with key :=
        if p.2.key = 0 then 0
        else (((live c).filter fun i => i.key ≠ 0).filter fun i => i.key < p.2.key).length + 1 })
      (fun _ => ⟨rfl, rfl, rfl, rfl, rfl, rfl, rfl⟩) c.ic.raises ((live c).filter fun i => i.key ≠ 0).length c)

theorem refreshKey_of (h : Moves nv a c) (n : Nat) : Moves nv a (refreshKey n c) := by
  unfold refreshKey
  dsimp only
  refine changeIncident_of ?_ n _
  have h1 := h.renumberKeys_of
  have h2 := h1.trans (.eachIncident (fun p => p.2) (fun _ => ⟨rfl, rfl, rfl, rfl, rfl, rfl, rfl⟩)
    (renumberKeys c).ic.raises ((renumberKeys c).ic.rotations + 1) (renumberKeys c))
  simpa using h2

theorem issueDrive_of (nv : Nv) (h : Moves nv a c) (n v : Nat) (x : Action) (k : Nat) (r : ValveRecord) :
    Moves nv a (issueDrive nv n v x k r c) := by
  unfold issueDrive
  dsimp only
  refine refreshKey_of (setProgress_of (handDrive_of (setSlot_of (setValve_of h v _ ?_) _ _) _) ..) n
  exact .inr (Nat.le_refl _)

theorem touchEntries_of (nv : Nv) (t : TableName) {β : Type} (f : β → Nat) (xs : List β) (h : Moves nv a c) :
    Moves nv a (xs.foldl (fun c e => touchEntry nv t (f e) c) c) :=
  foldl (f := fun c e => touchEntry nv t (f e) c) (fun x hx => hx.touchEntry_of nv t (f x)) xs h

theorem scan_of (nv : Nv) : ∀ (is : List Incident) {c : Core}, Moves nv a c → Moves nv a (scan nv is c).2
  | [], _, h => h
  | i :: rest, c, h => by
    unfold scan
    dsimp only
    split
    · exact touchEntries_of nv .valve (fun e : Nat × Progress => e.1) _ h
    · exact scan_of nv rest (touchEntries_of nv .valve (fun e : Nat × Progress => e.1) _ h)

theorem takeEntry_of (nv : Nv) (h : Moves nv a c) (n v : Nat) (x : Action) (k : Nat) :
    Moves nv a (takeEntry nv n v x k c) := by
  have h1 : Moves nv a (touchEntry nv .valve v c) := h.touchEntry_of ..
  unfold takeEntry
  dsimp only
  repeat' split
  all_goals first
    | exact h1.endEntry_of ..
    | exact h1.faultEntry_of ..
    | exact h1.issueDrive_of ..

theorem grantLoop_of (nv : Nv) : ∀ (f : Nat) {c : Core}, Moves nv a c → Moves nv a (grantLoop nv f c)
  | 0, _, h => h
  | f + 1, c, h => by
    unfold grantLoop
    split
    · exact h
    · have h1 := scan_of nv (grantOrder nv c) h.beginPart_of
      split
      · next e => rw [e] at h1; exact h1
      · next e => rw [e] at h1; exact grantLoop_of nv f (h1.takeEntry_of ..)

theorem arbiter_of (nv : Nv) (h : Moves nv a c) : Moves nv a (arbiter nv c) := grantLoop_of nv _ h

theorem freeSlot_of (h : Moves nv a c) (k : Nat) (m : Motion) (st : ValveMark) : Moves nv a (freeSlot k m st c) := by
  unfold freeSlot
  exact setValve_of (h.clearSlot_of k) _ _ (.inr (Nat.le_refl _))

theorem completeMotion_of (nv : Nv) (h : Moves nv a c) (k : Nat) (m : Motion) : Moves nv a (completeMotion nv k m c) := by
  unfold completeMotion
  exact ((freeSlot_of h ..).endEntry_of ..).arbiter_of nv

theorem countFault_of (h : Moves nv a c) (v : Nat) : Moves nv a (countFault v c) := by
  unfold countFault
  exact setValve_of h _ _ (.inl (Nat.min_le_left _ _))

theorem faultMotion_of (nv : Nv) (h : Moves nv a c) (k : Nat) (m : Motion) (x : FaultCause) :
    Moves nv a (faultMotion nv k m x c) := by
  unfold faultMotion
  exact ((countFault_of (freeSlot_of h ..) _).faultEntry_of ..).arbiter_of nv

theorem withdrawFaulted_of (nv : Nv) (h : Moves nv a c) (k : Nat) (m : Motion) (x : FaultCause) :
    Moves nv a (withdrawFaulted nv k m x c) := by
  unfold withdrawFaulted
  exact ((freeSlot_of h ..).faultEntry_of ..).arbiter_of nv

theorem withdrawSkipped_of (nv : Nv) (h : Moves nv a c) (k : Nat) (m : Motion) : Moves nv a (withdrawSkipped nv k m c) := by
  unfold withdrawSkipped
  exact ((freeSlot_of h ..).endEntry_of ..).arbiter_of nv

theorem acknowledge_of (h : Moves nv a c) (k : Nat) (m : Motion) : Moves nv a (acknowledge k m c) := h.setSlot_of k _

theorem reportInFlight_of (nv : Nv) (h : Moves nv a c) (k : Nat) (m : Motion) (r : Report) :
    Moves nv a (reportInFlight nv k m r c) := by
  unfold reportInFlight
  split
  · exact h
  · split
    · split
      · exact acknowledge_of h ..
      · exact h
    · split
      · exact h.completeMotion_of ..
      · exact h.faultMotion_of ..
    · exact h.faultMotion_of ..

theorem testDisturbed_of (h : Moves nv a c) (v : Nat) (p : Position) (r : Report) : Moves nv a (testDisturbed v p r c) := by
  unfold testDisturbed
  split
  · exact h.notify_of ..
  · exact h

theorem testLate_of (h : Moves nv a c) (v : Nat) (p : Position) (r : Report) : Moves nv a (testLate v p r c) := by
  unfold testLate
  split
  · exact h
  · split
    · exact h.notify_of ..
    · exact h

theorem reportFor_of (nv : Nv) (h : Moves nv a c) (v : Nat) (r : Report) : Moves nv a (reportFor nv v r c) := by
  unfold reportFor
  dsimp only
  split
  · refine reportInFlight_of nv ?_ ..
    exact setValve_of h v _ (by exact .inr (Nat.le_refl _))
  · refine testLate_of (testDisturbed_of ?_ ..) ..
    exact setValve_of h v _ (by exact .inr (Nat.le_refl _))

theorem positionReport_of (nv : Nv) (h : Moves nv a c) (st : Nat) (r : Report) : Moves nv a (positionReport nv st r c) := by
  unfold positionReport
  dsimp only
  split
  · exact h.touchIndex_of ..
  · split
    · exact h.touchIndex_of ..
    · exact (h.touchIndex_of ..).reportFor_of ..

theorem reissue_of (nv : Nv) (h : Moves nv a c) (k : Nat) (m : Motion) (r : ValveRecord) : Moves nv a (reissue nv k m r c) := by
  unfold reissue
  exact handDrive_of (setSlot_of h ..) _

theorem firstExpiry_of (nv : Nv) (h : Moves nv a c) (k : Nat) (m : Motion) : Moves nv a (firstExpiry nv k m c) := by
  have h1 : Moves nv a (touchEntry nv .valve m.valve c) := h.touchEntry_of ..
  unfold firstExpiry
  dsimp only
  split
  · exact h1.withdrawFaulted_of ..
  · split
    · split
      · exact h1.withdrawSkipped_of ..
      · exact h1.reissue_of ..
    · exact h1.withdrawFaulted_of ..
    · exact h1.withdrawFaulted_of ..

theorem responseExpiry_of (nv : Nv) (h : Moves nv a c) (k : Nat) : Moves nv a (responseExpiry nv k c) := by
  unfold responseExpiry
  repeat' split
  all_goals first
    | exact h
    | exact h.faultMotion_of ..
    | exact h.firstExpiry_of ..

theorem strokeExpiry_of (nv : Nv) (h : Moves nv a c) (k : Nat) : Moves nv a (strokeExpiry nv k c) := by
  unfold strokeExpiry
  repeat' split
  all_goals first
    | exact h
    | exact h.faultMotion_of ..

end Sys2Proof.Machine.Moves
end

