-- ==== Sys2Proof/Laws/MovesEvents.lean ====
section
/-! SUPPORT. The operations of Watch, Tables and Plan, and the incident requests, as runs of the updates of Moves. -/

namespace Sys2Proof.Machine

/-- The baseline after a quiet reading lies between the old one and 16 times the reading (04 R64). -/
theorem baselineAfter_le (k b x : Nat) : baselineAfter k b x ≤ max b (x * 16) := by
  unfold baselineAfter
  split
  · have := Nat.div_le_self (x * 16 - b) (2 ^ k)
    omega
  · exact Nat.le_trans (Nat.sub_le ..) (Nat.le_max_left ..)

theorem judged_baseline (r : SensorRecord) (ch : Channel) : (judged r ch).baseline = ch.baseline := by
  unfold judged releaseRun tripped
  repeat' split
  all_goals rfl

theorem judged_deviation (r : SensorRecord) (ch : Channel) : (judged r ch).deviation = ch.deviation := by
  unfold judged releaseRun tripped
  repeat' split
  all_goals rfl

/-- An evaluated reading keeps a channel's baseline and deviation in range (04 R62, R64). -/
theorem evaluated_step (r : SensorRecord) (x time : Nat) (ch : Channel) (hx : x ≤ 65535) :
    ChannelStep ch (evaluated r x time ch) := by
  unfold evaluated stamped
  split
  · exact ⟨.inl (by simp only [seeded]; omega), .inl (by simp [seeded])⟩
  · unfold tracked
    split
    · refine ⟨?_, .inl ?_⟩
      · have := baselineAfter_le r.shift (judged r { ch with deviation := deviationOf r.kind ch.baseline x }).baseline x
        simp only [judged_baseline] at this ⊢
        omega
      · simp only [judged_deviation, deviationOf]
        exact Nat.min_le_left _ _
    · refine ⟨.inr (by simp [judged_baseline]), .inl ?_⟩
      simp only [judged_deviation, deviationOf]
      exact Nat.min_le_left _ _

namespace Moves

variable {nv : Nv} {a c : Core}

/-! ### Watch -/

theorem scoreChange_of (nv : Nv) (h : Moves nv a c) (i : Nat) (x y : Channel) : Moves nv a (scoreChange nv i x y c) := by
  unfold scoreChange
  split
  · exact h.touchRun_of ..
  · exact h

theorem evaluateIn_of (nv : Nv) (h : Moves nv a c) (i : Nat) (r : SensorRecord) (x time : Nat) (hx : x ≤ 65535) :
    Moves nv a (evaluateIn nv i r x time c) := by
  have h1 := (h.setChannel_of i _ (evaluated_step r x time (channelOf i c) hx)).scoreChange_of nv i (channelOf i c)
    (evaluated r x time (channelOf i c))
  unfold evaluateIn
  dsimp only
  repeat' split
  all_goals first
    | exact h1
    | exact h1.leaveList_of ..

theorem readingFor_of (nv : Nv) (h : Moves nv a c) (time : Nat) (x : Reading) (i : Nat) (hx : x.value ≤ 65535) :
    Moves nv a (readingFor nv time x i c) := by
  have h1 : Moves nv a (touchEntry nv .sensor i c) := h.touchEntry_of ..
  unfold readingFor
  dsimp only
  repeat' split
  all_goals first
    | exact h1
    | exact h1.evaluateIn_of _ _ _ _ _ hx

theorem takeReading_of (nv : Nv) (h : Moves nv a c) (st time : Nat) (x : Reading) (hx : x.value ≤ 65535) :
    Moves nv a (takeReading nv st time c x) := by
  have h1 : Moves nv a (touchIndex nv .stationIndex st (Machine.beginPart c)) := h.beginPart_of.touchIndex_of ..
  unfold takeReading
  dsimp only
  repeat' split
  all_goals first
    | exact h1
    | exact (h1.readingFor_of _ _ _ _ hx).luUpdate_of _

theorem takeReadings_of (nv : Nv) (st time : Nat) : ∀ (xs : List Reading) {c : Core}, (∀ x ∈ xs, x.value ≤ 65535) →
    Moves nv a c → Moves nv a (xs.foldl (takeReading nv st time) c)
  | [], _, _, h => h
  | x :: xs, _, hx, h =>
    takeReadings_of nv st time xs (fun y hy => hx y (List.mem_cons_of_mem _ hy))
      (h.takeReading_of nv st time x (hx x List.mem_cons_self))

theorem staled_step (ch : Channel) : ChannelStep ch (staled ch) := ⟨.inr (Nat.le_refl _), .inr (Nat.le_refl _)⟩

theorem stalenessExpiry_of (nv : Nv) (h : Moves nv a c) (i : Nat) : Moves nv a (stalenessExpiry nv i c) := by
  have h1 := luUpdate_of nv (scoreChange_of nv (setChannel_of h i (staled (channelOf i c)) (staled_step _)) i
    (channelOf i c) (staled (channelOf i c)))
  unfold stalenessExpiry
  dsimp only
  revert h1
  generalize luUpdate nv _ = d
  intro h1
  split
  · split
    · exact leaveList_of (notify_of h1 ..) ..
    · exact notify_of h1 ..
  · exact h

theorem windowExpiry_of (nv : Nv) (h : Moves nv a c) (z : Nat) : Moves nv a (windowExpiry nv z c) := by
  unfold windowExpiry
  split
  · exact h.chooseIn_of ..
  · exact h

theorem confirmationExpiry_of (h : Moves nv a c) (n : Nat) : Moves nv a (confirmationExpiry n c) := by
  unfold confirmationExpiry
  repeat' split
  all_goals first
    | exact h
    | exact (h.changeIncident_of n _).changeState_of ..

/-! ### Tables -/

theorem compileDone_of (h : Moves nv a c) (r : CompileResult) (e : Option (TableName × Nat)) (n : Nat) :
    Moves nv a (compileDone r e n c) := by
  unfold compileDone
  split <;> exact h.notify_of ..

theorem recordHome_of (nv : Nv) (h : Moves nv a c) (i : Nat) : Moves nv a (recordHome nv c i) := by
  unfold recordHome
  exact setChannel_of h i _ (.kept rfl rfl)

theorem rederive_of (nv : Nv) (h : Moves nv a c) (i : Nat) : Moves nv a (rederive nv c i) := by
  have h1 : Moves nv a (recordHome nv (touchEntry nv .sensor i c) i) := (h.touchEntry_of ..).recordHome_of nv i
  unfold rederive
  dsimp only
  repeat' split
  all_goals first
    | exact h1
    | exact h1.inhibitChannel_of ..
    | exact h1.releaseChannel_of ..

theorem forgetValve_of (h : Moves nv a c) (v : Nat) : Moves nv a (forgetValve c v) := by
  unfold forgetValve
  split
  · exact h
  · exact setValve_of h v _ (.inl (Nat.zero_le _))

theorem touchTable_of (nv : Nv) (h : Moves nv a c) (t : TableName) : Moves nv a (touchTable nv c t) :=
  touchEntries_of nv t (fun i => i) _ h

theorem sidesFromLists_of (nv : Nv) (v : Nat) : ∀ (gs : List Nat) {c : Core}, Moves nv a c →
    Moves nv a (sidesFromLists nv v gs c).2
  | [], _, h => h
  | g :: gs, c, h => by
    unfold sidesFromLists
    dsimp only
    repeat' split
    all_goals first
      | exact sidesFromLists_of nv v gs (h.touchIndex_of ..)
      | exact h.touchIndex_of ..

theorem oldSides_of (nv : Nv) (i : Incident) (v : Nat) (h : Moves nv a c) : Moves nv a (oldSides nv i v c).2 := by
  unfold oldSides
  dsimp only
  split
  · exact h.touchEntry_of ..
  · exact sidesFromLists_of nv v _ (h.touchEntry_of ..)
  · exact h.touchEntry_of ..

theorem failingValve_of (nv : Nv) (new : Tables) (i : Incident) : ∀ (vs : List Nat) {c : Core}, Moves nv a c →
    Moves nv a (failingValve nv new i vs c).2
  | [], _, h => h
  | v :: vs, c, h => by
    unfold failingValve
    dsimp only
    split
    · exact failingValve_of nv new i vs (oldSides_of nv i v h)
    · exact oldSides_of nv i v h

theorem firstConflict_of (nv : Nv) (new : Tables) : ∀ (is : List Incident) {c : Core}, Moves nv a c →
    Moves nv a (firstConflict nv new is c).2
  | [], _, h => h
  | i :: is, c, h => by
    have h1 := failingValve_of nv new i (i.closure.map fun e => e.valve) h
    unfold firstConflict
    split
    · next e => rw [e] at h1; exact h1
    · next e =>
      rw [e] at h1
      split
      · exact h1
      · exact firstConflict_of nv new is h1

/-! ### Plan -/

theorem readIndexes_of (nv : Nv) : ∀ (gs : List Nat) {c : Core}, Moves nv a c → Moves nv a (readIndexes nv gs c).2
  | [], _, h => h
  | g :: gs, c, h => by
    unfold readIndexes
    dsimp only
    split
    · exact h.touchIndex_of ..
    · exact readIndexes_of nv gs (h.touchIndex_of ..)

theorem examine_of (nv : Nv) (w : Snapshot) : ∀ (ps : List (Nat × Nat)) (s : List Nat) {c : Core}, Moves nv a c →
    Moves nv a (examine nv w ps s c).2
  | [], _, _, h => h
  | (v, far) :: ps, s, c, h => by
    have h1 : Moves nv a (touchEntry nv .valve v c) := h.touchEntry_of ..
    unfold examine
    dsimp only
    repeat' split
    all_goals first
      | exact h1
      | exact examine_of nv w ps _ h1
      | exact examine_of nv w ps _ ((h1.touchEntry_of ..).touchIndex_of ..)
      | exact (h1.touchEntry_of ..).touchIndex_of ..

theorem expand_of (nv : Nv) (w : Snapshot) : ∀ (f : Nat) (s : List Nat) {c : Core}, Moves nv a c →
    Moves nv a (expand nv w f s c).2
  | 0, _, _, h => h
  | f + 1, s, c, h => by
    have h1 := readIndexes_of nv s h
    unfold expand
    split
    · next e => rw [e] at h1; exact h1
    · next c1 e =>
      rw [e] at h1
      have h2 := examine_of nv w (boundaryOf nv s c1) s h1
      split
      · next e2 => rw [e2] at h2; exact h2
      · next e2 =>
        rw [e2] at h2
        split
        · exact h2
        · exact expand_of nv w f _ h2

theorem touchUnknown_of (nv : Nv) (w : Snapshot) (items : List (Nat × Nat)) (h : Moves nv a c) :
    Moves nv a (touchUnknown nv w items c) := touchEntries_of nv .valve (fun p : Nat × Nat => p.1) _ h

theorem reach_of (nv : Nv) (w : Snapshot) (s listed : List Nat) : ∀ (f : Nat) (todo reached : List Nat) {c : Core},
    Moves nv a c → Moves nv a (reach nv w s listed f todo reached c).2
  | 0, _, _, _, h => h
  | _ + 1, [], _, _, h => h
  | f + 1, g :: todo, reached, c, h => by
    unfold reach
    dsimp only
    split
    · exact reach_of nv w s listed f _ _ (h.touchIndex_of ..)
    · exact reach_of nv w s listed f _ _ (touchUnknown_of nv w _ (h.touchIndex_of ..))

theorem touchIndexes_of (nv : Nv) (x : Area) (is : List Nat) (h : Moves nv a c) :
    Moves nv a (is.foldl (fun c i => touchIndex nv x i c) c) :=
  foldl (f := fun c i => touchIndex nv x i c) (fun i hi => hi.touchIndex_of nv x i) is h

theorem reachStart_of (nv : Nv) (w : Snapshot) (s : List Nat) (h : Moves nv a c) : Moves nv a (reachStart nv w s c).2 :=
  touchIndexes_of nv .segmentIndex _ (touchEntries_of nv .segment (fun g => g) _ h)

theorem outageOf_of (nv : Nv) (w : Snapshot) (s listed : List Nat) (h : Moves nv a c) :
    Moves nv a (outageOf nv w s listed c).2 :=
  reach_of nv w s listed _ _ _ (reachStart_of nv w s h)

theorem computePlan_of (nv : Nv) (w : Snapshot) (h : Moves nv a c) : Moves nv a (computePlan nv w c).2 := by
  have h1 := expand_of nv w (w.limit + 2) w.isolation h
  unfold computePlan
  split
  · next e => rw [e] at h1; exact h1
  · next e =>
    rw [e] at h1
    dsimp only
    split
    · exact h1
    · exact outageOf_of nv w _ _ h1

theorem takeClaim_of (h : Moves nv a c) (v : Nat) : Moves nv a (takeClaim c v) := by
  unfold takeClaim
  exact setValve_of h v _ (.inr (Nat.le_refl _))

theorem applyPlan_of (nv : Nv) (h : Moves nv a c) (i : Incident) (p : Plan) : Moves nv a (applyPlan nv i p c) := by
  unfold applyPlan
  dsimp only
  refine notify_of (changeIncident_of (luUpdate_of nv ?_) _ _) ..
  refine foldl (fun x hx => hx.inhibitSegment_of nv x) _ ?_
  refine foldl (fun x hx => hx.takeClaim_of x) _ ?_
  exact h.changeIncident_of _ _

theorem planOutcome_of (nv : Nv) (h : Moves nv a c) (i : Incident) (p : Plan) (needs : Bool) :
    Moves nv a (planOutcome nv i p needs c) := by
  have h1 : Moves nv a (if waitsForReopen p c then joinQueue i.number c else c) := by
    split
    · exact h.joinQueue_of _
    · exact h
  unfold planOutcome
  revert h1
  generalize (if waitsForReopen p c then joinQueue i.number c else c) = d
  intro h1
  dsimp only
  repeat' split
  all_goals first
    | exact h1
    | exact h1.changeState_of ..
    | exact h1.completionTest_of ..
    | exact (h1.changeState_of ..).completionTest_of ..

theorem stallIncident_of (h : Moves nv a c) (i : Incident) (k : StallCause) : Moves nv a (stallIncident i k c) :=
  ((h.changeIncident_of i.number _).withdrawReplan_of i.order).changeState_of i.number .stalled

theorem planStands_of (nv : Nv) (h : Moves nv a c) (o : Nat) (r : Except StallCause Plan) :
    Moves nv a (planStands nv o r c) := by
  unfold planStands
  repeat' split
  all_goals first
    | exact h
    | exact h.endIncident_of ..
    | exact h.stallIncident_of ..
    | exact ((h.applyPlan_of ..).planOutcome_of ..).arbiter_of ..

/-! ### Incident requests -/

theorem enterIsolating_of (nv : Nv) (h : Moves nv a c) (n : Nat) (replan : Bool) :
    Moves nv a (enterIsolating nv n replan c) := by
  unfold enterIsolating
  dsimp only
  split
  · exact ((((h.changeState_of ..).queueReplan_of ..)).completionTest_of ..).arbiter_of nv
  · exact ((h.changeState_of ..).completionTest_of ..).arbiter_of nv

theorem restoreIncident_of (nv : Nv) (h : Moves nv a c) (i : Incident) : Moves nv a (restoreIncident nv i c) := by
  unfold restoreIncident
  dsimp only
  split
  · exact (h.enterRestoring_of ..).arbiter_of nv
  · exact h.enterRestoring_of ..

theorem refuseIncident_of (nv : Nv) (h : Moves nv a c) (i : Incident) : Moves nv a (refuseIncident nv i c) := by
  unfold refuseIncident
  split
  · exact (h.giveUpClaims_of _).endIncident_of ..
  · exact h.restoreIncident_of ..

theorem takenFor_of (nv : Nv) (h : Moves nv a c) (n : Nat) : Moves nv a (takenFor nv n c).2 := h.luUpdate_of nv

theorem doConsent_of (nv : Nv) (h : Moves nv a c) (args : List Byte) : Moves nv a (doConsent nv args c).2 := by
  unfold doConsent
  dsimp only
  repeat' split
  all_goals first
    | exact h
    | exact takenFor_of _ (enterIsolating_of _ (h.changeIncident_of _ _) ..) ..

theorem doRefuse_of (nv : Nv) (h : Moves nv a c) (args : List Byte) : Moves nv a (doRefuse nv args c).2 := by
  unfold doRefuse
  dsimp only
  repeat' split
  all_goals first
    | exact h
    | exact takenFor_of _ (h.refuseIncident_of ..) ..

theorem doSuspend_of (nv : Nv) (h : Moves nv a c) (args : List Byte) : Moves nv a (doSuspend nv args c).2 := by
  unfold doSuspend
  dsimp only
  repeat' split
  all_goals first
    | exact h
    | exact takenFor_of _ (h.changeState_of ..) ..

theorem doResume_of (nv : Nv) (h : Moves nv a c) (args : List Byte) : Moves nv a (doResume nv args c).2 := by
  unfold doResume
  dsimp only
  repeat' split
  all_goals first
    | exact h
    | exact takenFor_of _ (h.enterIsolating_of ..) ..

theorem releaseIncident_of (nv : Nv) (h : Moves nv a c) (i : Incident) : Moves nv a (releaseIncident nv i c).2 := by
  have h1 : Moves nv a (restoreIncident nv i c) := h.restoreIncident_of ..
  unfold releaseIncident
  split
  · exact takenFor_of _ (h.endIncident_of ..) ..
  · exact takenFor_of _ (h.changeIncident_of _ _) ..
  · exact takenFor_of _ (h.refuseIncident_of ..) ..
  · exact h
  · exact takenFor_of _ h1 ..

theorem doRelease_of (nv : Nv) (h : Moves nv a c) (args : List Byte) : Moves nv a (doRelease nv args c).2 := by
  unfold doRelease
  split
  · exact h
  · exact h.releaseIncident_of ..

theorem doExpand_of (nv : Nv) (h : Moves nv a c) (args : List Byte) : Moves nv a (doExpand nv args c).2 := by
  unfold doExpand
  dsimp only
  repeat' split
  all_goals first
    | exact h
    | exact takenFor_of _ (enterIsolating_of _ (h.changeIncident_of _ _) ..) ..

theorem doRetry_of (nv : Nv) (h : Moves nv a c) (args : List Byte) : Moves nv a (doRetry nv args c).2 := by
  unfold doRetry
  dsimp only
  repeat' split
  all_goals first
    | exact h
    | exact takenFor_of _ (enterIsolating_of _ (h.changeIncident_of _ _) ..) ..

theorem doRaise_of (nv : Nv) (h : Moves nv a c) (args : List Byte) : Moves nv a (doRaise nv args c).2 := by
  have h1 : Moves nv a (luUpdate nv (touchIndex nv .segmentIndex (u16 args 0) (touchEntry nv .segment (u16 args 0) c))) :=
    ((h.touchEntry_of ..).touchIndex_of ..).luUpdate_of nv
  unfold doRaise
  dsimp only
  repeat' split
  all_goals first
    | exact h
    | exact h1
    | exact (h1.raiseIncident_of ..).luUpdate_of nv

theorem doReadEntry_of (nv : Nv) (h : Moves nv a c) (args : List Byte) : Moves nv a (doReadEntry nv args c).2 := by
  unfold doReadEntry
  dsimp only
  repeat' split
  all_goals first
    | exact h
    | exact luUpdate_of nv (touchEntries_of nv _ (fun i => i) _ h)

end Moves

end Sys2Proof.Machine
end

