-- ==== Sys2Proof/Laws/MovesFrame.lean ====
section
/-! SUPPORT. What every run of the updates of Moves keeps: cite these in place of unfolding an operation of the deciding blocks. -/

namespace Sys2Proof.Machine.Moves

open Sys2Proof.Machine

variable {nv : Nv} {a c : Core}

/-- What no operation of the deciding blocks touches: the table state, the start-up check, holds, lock, shadow bank, window, compile
state and result, the last-sample-sequence table, mode and mask, and the part time. -/
theorem frame (h : Moves nv a c) :
    c.ts.valid = a.ts.valid ∧ c.ts.checking = a.ts.checking ∧ c.ts.dynamic = a.ts.dynamic ∧ c.ts.lock = a.ts.lock
      ∧ c.ts.shadow = a.ts.shadow ∧ c.ts.window = a.ts.window ∧ c.ts.compile = a.ts.compile ∧ c.ts.last = a.ts.last
      ∧ c.wu.lastSeq = a.wu.lastSeq ∧ c.ic.mode = a.ic.mode ∧ c.ic.mask = a.ic.mask ∧ c.log.time = a.log.time := by
  induction h with
  | trans _ _ i k =>
    obtain ⟨a1, a2, a3, a4, a5, a6, a7, a8, a9, a10, a11, a12⟩ := i
    obtain ⟨b1, b2, b3, b4, b5, b6, b7, b8, b9, b10, b11, b12⟩ := k
    exact ⟨b1.trans a1, b2.trans a2, b3.trans a3, b4.trans a4, b5.trans a5, b6.trans a6, b7.trans a7, b8.trans a8,
      b9.trans a9, b10.trans a10, b11.trans a11, b12.trans a12⟩
  | notify kind n v g code c =>
    unfold Machine.notify
    split <;> exact ⟨rfl, rfl, rfl, rfl, rfl, rfl, rfl, rfl, rfl, rfl, rfl, rfl⟩
  | notifyTableError v g code c =>
    unfold Machine.notifyTableError
    dsimp only
    repeat' split
    all_goals exact ⟨rfl, rfl, rfl, rfl, rfl, rfl, rfl, rfl, rfl, rfl, rfl, rfl⟩
  | renumber c =>
    unfold renumberOrders
    split <;> exact ⟨rfl, rfl, rfl, rfl, rfl, rfl, rfl, rfl, rfl, rfl, rfl, rfl⟩
  | join n c =>
    unfold joinQueue
    repeat' split
    all_goals exact ⟨rfl, rfl, rfl, rfl, rfl, rfl, rfl, rfl, rfl, rfl, rfl, rfl⟩
  | _ => exact ⟨rfl, rfl, rfl, rfl, rfl, rfl, rfl, rfl, rfl, rfl, rfl, rfl⟩

theorem length_insertAt {α : Type} (k : Nat) (x : α) (xs : List α) : (insertAt k x xs).length = xs.length + 1 := by
  simp only [insertAt, List.length_append, List.length_cons, List.length_take, List.length_drop]
  omega

theorem take_insertAt {α : Type} {j k : Nat} {xs : List α} (h : j ≤ k) (hk : k ≤ xs.length) (x : α) :
    (insertAt k x xs).take j = xs.take j := by
  unfold insertAt
  rw [List.take_append_of_le_length (by rw [List.length_take]; omega), List.take_take, Nat.min_eq_left h]

/-- Past 32 the notice queue does not grow (09 R185). -/
theorem notices_length (h : Moves nv a c) (ha : a.log.notices.length ≤ Config.noticePlaces) :
    c.log.notices.length ≤ Config.noticePlaces := by
  induction h with
  | trans _ _ i k => exact k (i ha)
  | notify kind n v g code c =>
    unfold Machine.notify
    split
    · simp only [List.length_append, List.length_singleton]
      omega
    · exact ha
  | notifyTableError v g code c =>
    unfold Machine.notifyTableError
    dsimp only
    repeat' split
    · simp only [length_insertAt]
      omega
    · simp only [List.length_dropLast, length_insertAt]
      omega
    · exact ha
  | renumber c =>
    unfold renumberOrders
    split <;> exact ha
  | join n c =>
    unfold joinQueue
    repeat' split
    all_goals exact ha
  | _ => exact ha

/-- What stood in the notice queue when an event or a part of it began stands first in it after (09 R185). -/
theorem notices_kept (h : Moves nv a c) (ha : a.log.seam ≤ a.log.notices.length) :
    c.log.seam ≤ c.log.notices.length ∧ a.log.seam ≤ c.log.seam
      ∧ c.log.notices.take a.log.seam = a.log.notices.take a.log.seam := by
  induction h with
  | refl c => exact ⟨ha, Nat.le_refl _, rfl⟩
  | trans _ _ i k =>
    obtain ⟨b1, b2, b3⟩ := i ha
    obtain ⟨c1, c2, c3⟩ := k b1
    refine ⟨c1, Nat.le_trans b2 c2, ?_⟩
    rw [← b3, ← Nat.min_eq_left b2, ← List.take_take, c3, List.take_take]
  | notify kind n v g code c =>
    unfold Machine.notify
    split
    · refine ⟨?_, Nat.le_refl _, List.take_append_of_le_length ha⟩
      simp only [List.length_append, List.length_singleton]
      omega
    · exact ⟨ha, Nat.le_refl _, rfl⟩
  | notifyTableError v g code c =>
    unfold Machine.notifyTableError
    dsimp only
    repeat' split
    · exact ⟨by simp only [length_insertAt]; omega, Nat.le_succ _, take_insertAt (Nat.le_refl _) ha _⟩
    · refine ⟨by simp only [List.length_dropLast, length_insertAt]; omega, Nat.le_succ _, ?_⟩
      dsimp only
      rw [List.dropLast_eq_take, List.take_take, length_insertAt, Nat.min_eq_left (by omega)]
      exact take_insertAt (Nat.le_refl _) ha _
    · exact ⟨ha, Nat.le_refl _, rfl⟩
  | beginPart c => exact ⟨Nat.le_refl _, ha, rfl⟩
  | renumber c =>
    unfold renumberOrders
    split <;> exact ⟨ha, Nat.le_refl _, rfl⟩
  | join n c =>
    unfold joinQueue
    repeat' split
    all_goals exact ⟨ha, Nat.le_refl _, rfl⟩
  | _ => exact ⟨ha, Nat.le_refl _, rfl⟩

/-- What the blocks hold in range (04 R62, R64; 05 R80; 08 R151). -/
structure InRange (c : Core) : Prop where
  /-- 04 R64 -/
  baseline : ∀ i, (channelOf i c).baseline ≤ 1048560
  /-- 04 R62 -/
  deviation : ∀ i, (channelOf i c).deviation ≤ 4095
  /-- 05 R80 -/
  score : ∀ g, scoreOf g c ≤ 65535
  /-- 08 R151 -/
  faults : ∀ v, (valveOf v c).faults ≤ 255

theorem channelOf_setChannel (i j : Nat) (ch : Channel) (c : Core) :
    channelOf j (Machine.setChannel i ch c) = if j = i then ch else channelOf j c := by
  unfold channelOf Machine.setChannel
  by_cases e : j = i
  · subst e; simp [Sparse.atD_putD_same]
  · simp [e, Sparse.atD_putD_other]

theorem scoreOf_setScore (g k n : Nat) (c : Core) :
    scoreOf k (Machine.setScore g n c) = if k = g then n else scoreOf k c := by
  unfold scoreOf Machine.setScore
  by_cases e : k = g
  · subst e; simp [Sparse.atD_putD_same]
  · simp [e, Sparse.atD_putD_other]

theorem valveOf_setValve (v w : Nat) (x : ValveStatus) (c : Core) :
    valveOf w (Machine.setValve v x c) = if w = v then x else valveOf w c := by
  unfold valveOf Machine.setValve
  by_cases e : w = v
  · subst e; simp [Sparse.atD_putD_same]
  · simp [e, Sparse.atD_putD_other]

/-- Every operation of the deciding blocks keeps the ranges. -/
theorem inRange (h : Moves nv a c) : InRange a → InRange c := by
  induction h with
  | refl => exact id
  | trans _ _ i k => exact fun r => k (i r)
  | notify kind n v g code c =>
    unfold Machine.notify
    split <;> exact fun r => ⟨r.baseline, r.deviation, r.score, r.faults⟩
  | notifyTableError v g code c =>
    unfold Machine.notifyTableError
    dsimp only
    repeat' split
    all_goals exact fun r => ⟨r.baseline, r.deviation, r.score, r.faults⟩
  | setChannel i ch c hs =>
    refine fun r => ⟨fun j => ?_, fun j => ?_, r.score, r.faults⟩
    · rw [channelOf_setChannel]
      split
      · exact hs.1.elim id fun x => Nat.le_trans x (r.baseline i)
      · exact r.baseline j
    · rw [channelOf_setChannel]
      split
      · exact hs.2.elim id fun x => Nat.le_trans x (r.deviation i)
      · exact r.deviation j
  | setScore g n c hn =>
    refine fun r => ⟨r.baseline, r.deviation, fun k => ?_, r.faults⟩
    rw [scoreOf_setScore]
    split
    · exact hn
    · exact r.score k
  | setValve v x c hx =>
    refine fun r => ⟨r.baseline, r.deviation, r.score, fun w => ?_⟩
    rw [valveOf_setValve]
    split
    · exact hx.elim id fun y => Nat.le_trans y (r.faults v)
    · exact r.faults w
  | renumber c =>
    unfold renumberOrders
    split <;> exact fun r => ⟨r.baseline, r.deviation, r.score, r.faults⟩
  | join n c =>
    unfold joinQueue
    repeat' split
    all_goals exact fun r => ⟨r.baseline, r.deviation, r.score, r.faults⟩
  | _ => exact fun r => ⟨r.baseline, r.deviation, r.score, r.faults⟩

/-- The arrays of the deciding blocks are in canonical form. -/
structure Canonical (c : Core) : Prop where
  /-- Condition map. -/
  map : c.ts.map.wf = true
  /-- Dynamic holds. -/
  dynamic : c.ts.dynamic.wf = true
  /-- Channel contexts. -/
  channels : c.wu.channels.wfD .reset = true
  /-- Scores. -/
  scores : c.lu.scores.wfD 0 = true
  /-- Windows. -/
  windows : c.lu.windows.wfD .closed = true
  /-- Incident entries. -/
  table : c.ic.table.wf = true
  /-- Valve status array. -/
  valves : c.ds.valves.wfD .reset = true
  /-- Motion slots. -/
  slots : c.ds.slots.wf = true
  /-- The arrays of the running plan's snapshot. -/
  snapshot : ∀ o k w, c.ip.engine = .running o k w →
    w.persistent.wf = true ∧ w.dynamic.wf = true ∧ w.valves.wfD .reset = true

/-- Every operation of the deciding blocks keeps the canonical forms. -/
theorem canonical (h : Moves nv a c) (hp : nv.persistent.wf = true) : Canonical a → Canonical c := by
  induction h with
  | refl => exact id
  | trans _ _ i k => exact fun r => k (i r)
  | notify kind n v g code c =>
    unfold Machine.notify
    split <;> exact fun r => ⟨r.map, r.dynamic, r.channels, r.scores, r.windows, r.table, r.valves, r.slots, r.snapshot⟩
  | notifyTableError v g code c =>
    unfold Machine.notifyTableError
    dsimp only
    repeat' split
    all_goals exact fun r => ⟨r.map, r.dynamic, r.channels, r.scores, r.windows, r.table, r.valves, r.slots, r.snapshot⟩
  | setMark p m c hm =>
    exact fun r => ⟨Sparse.wf_put _ _ _ r.map, r.dynamic, r.channels, r.scores, r.windows, r.table, r.valves, r.slots, r.snapshot⟩
  | setChannel i ch c hs =>
    exact fun r => ⟨r.map, r.dynamic, Sparse.wfD_putD _ _ _ _ r.channels, r.scores, r.windows, r.table, r.valves, r.slots, r.snapshot⟩
  | setScore g n c hn =>
    exact fun r => ⟨r.map, r.dynamic, r.channels, Sparse.wfD_putD _ _ _ _ r.scores, r.windows, r.table, r.valves, r.slots, r.snapshot⟩
  | setWindow z w c =>
    exact fun r => ⟨r.map, r.dynamic, r.channels, r.scores, Sparse.wfD_putD _ _ _ _ r.windows, r.table, r.valves, r.slots, r.snapshot⟩
  | eachIncident f hf x y c =>
    exact fun r => ⟨r.map, r.dynamic, r.channels, r.scores, r.windows,
      Sparse.risingFrom_map _ _ (fun _ => rfl) r.table, r.valves, r.slots, r.snapshot⟩
  | newIncident e i n x ps c he =>
    exact fun r => ⟨r.map, r.dynamic, r.channels, r.scores, r.windows, Sparse.wf_put _ _ _ r.table, r.valves, r.slots, r.snapshot⟩
  | remove n c =>
    exact fun r => ⟨r.map, r.dynamic, r.channels, r.scores, r.windows, Sparse.risingFrom_filter _ _ r.table, r.valves,
      r.slots, r.snapshot⟩
  | renumber c =>
    unfold renumberOrders
    split
    · exact id
    · refine fun r => ⟨r.map, r.dynamic, r.channels, r.scores, r.windows, Sparse.risingFrom_map _ _ (fun _ => rfl) r.table,
        r.valves, r.slots, fun o k w e => ?_⟩
      dsimp only at e
      split at e
      · next e' =>
        simp only [Engine.running.injEq] at e
        rw [← e.2.2]
        exact r.snapshot _ _ _ e'
      · simp at e
  | join n c =>
    unfold joinQueue
    repeat' split
    all_goals exact fun r =>
      ⟨r.map, r.dynamic, r.channels, r.scores, r.windows, r.table, r.valves, r.slots, r.snapshot⟩
  | plan i k c =>
    refine fun r => ⟨r.map, r.dynamic, r.channels, r.scores, r.windows, r.table, r.valves, r.slots, fun o k w e => ?_⟩
    simp only [startPlan_ip_engine, Engine.running.injEq] at e
    rw [← e.2.2]
    exact ⟨hp, r.dynamic, r.valves⟩
  | setValve v x c hx =>
    exact fun r => ⟨r.map, r.dynamic, r.channels, r.scores, r.windows, r.table, Sparse.wfD_putD _ _ _ _ r.valves, r.slots, r.snapshot⟩
  | setSlot k m c =>
    exact fun r => ⟨r.map, r.dynamic, r.channels, r.scores, r.windows, r.table, r.valves, Sparse.wf_put _ _ _ r.slots, r.snapshot⟩
  | clearSlot k c =>
    exact fun r => ⟨r.map, r.dynamic, r.channels, r.scores, r.windows, r.table, r.valves, Sparse.wf_del _ _ r.slots, r.snapshot⟩
  | _ => exact fun r => ⟨r.map, r.dynamic, r.channels, r.scores, r.windows, r.table, r.valves, r.slots, r.snapshot⟩

theorem markAt_setMark (p q : Place) (m : Mark) (c : Core) :
    markAt (Machine.setMark p m c) q = if q.key = p.key then some m else markAt c q := by
  unfold markAt Machine.setMark
  by_cases e : q.key = p.key
  · simp [e, Sparse.at?_put_same]
  · simp [e, Sparse.at?_put_other]

/-- Every mark is one that the check code of the active bank shows (02 R29, R34). -/
def MarksShown (nv : Nv) (c : Core) : Prop :=
  ∀ p : Place, (markAt c p = some .corrected → nv.active.damage.at? p.key = some .one)
    ∧ (markAt c p = some .poisoned → nv.active.damage.at? p.key = some .two)

theorem damage_of_wrongAt {b : Bank} {p : Place} {w : Wrong} (h : b.wrongAt p = some w) : b.damage.at? p.key = some w := by
  unfold Bank.wrongAt at h
  split at h
  · exact h
  · simp at h

/-- A POISONED place stays so, and a CORRECTED one stays marked (02 R29). -/
theorem marks_kept (h : Moves nv a c) (p : Place) :
    (markAt a p = some .poisoned → markAt c p = some .poisoned) ∧ (markAt a p ≠ none → markAt c p ≠ none) := by
  induction h with
  | refl c => exact ⟨id, id⟩
  | trans _ _ i k => exact ⟨fun x => k.1 (i.1 x), fun x => k.2 (i.2 x)⟩
  | setMark q m c hm =>
    rw [markAt_setMark]
    split
    · next e =>
      have e' : markAt c p = markAt c q := by simp only [markAt, e]
      rw [e']
      rcases hm with ⟨rfl, _, hn⟩ | ⟨rfl, _, hn⟩
      · simp [hn]
      · simp
    · exact ⟨id, id⟩
  | notify kind n v g code c =>
    unfold Machine.notify
    split <;> exact ⟨id, id⟩
  | notifyTableError v g code c =>
    unfold Machine.notifyTableError
    dsimp only
    repeat' split
    all_goals exact ⟨id, id⟩
  | renumber c =>
    unfold renumberOrders
    split <;> exact ⟨id, id⟩
  | join n c =>
    unfold joinQueue
    repeat' split
    all_goals exact ⟨id, id⟩
  | _ => exact ⟨id, id⟩

/-- Every operation of the deciding blocks leaves no mark that the active bank's check codes do not show. -/
theorem marksShown (h : Moves nv a c) : MarksShown nv a → MarksShown nv c := by
  induction h with
  | refl c => exact id
  | trans _ _ i k => exact fun x => k (i x)
  | setMark q m c hm =>
    intro r p
    rw [markAt_setMark]
    split
    · next e =>
      rw [e]
      rcases hm with ⟨rfl, hw, _⟩ | ⟨rfl, hw, _⟩
      · simp [damage_of_wrongAt hw]
      · simp [damage_of_wrongAt hw]
    · exact r p
  | notify kind n v g code c =>
    unfold Machine.notify
    split <;> exact id
  | notifyTableError v g code c =>
    unfold Machine.notifyTableError
    dsimp only
    repeat' split
    all_goals exact id
  | renumber c =>
    unfold renumberOrders
    split <;> exact id
  | join n c =>
    unfold joinQueue
    repeat' split
    all_goals exact id
  | _ => exact id

/-- The plan queue holds each raise order once, and only those of live incidents (07 R128, R129). -/
structure QueueLive (c : Core) : Prop where
  nodup : c.ip.queue.Nodup
  live : ∀ o ∈ c.ip.queue, ∃ i ∈ live c, i.order = o

/-- A queue of which some requests have been dropped. -/
theorem QueueLive.sublist {c : Core} (r : QueueLive c) {q : List Nat} (h : q.Sublist c.ip.queue) :
    QueueLive { c with ip := { c.ip with queue := q } } := ⟨r.nodup.sublist h, fun o ho => r.live o (h.subset ho)⟩

/-- A live incident stays live while no incident leaves the table. -/
theorem live_put {e : Nat} {i x : Incident} {t : Sparse Incident} (he : t.has e = false) (h : x ∈ t.map Prod.snd) :
    x ∈ (t.put e i).map Prod.snd := by
  induction t with
  | nil => simp at h
  | cons p rest ih =>
    obtain ⟨k, y⟩ := p
    simp only [Sparse.has, Sparse.at?] at he
    by_cases hk : k = e
    · simp [hk] at he
    · simp only [hk, if_false] at he
      simp only [List.map_cons, List.mem_cons] at h
      unfold Sparse.put
      split
      · simp only [List.map_cons, List.mem_cons]
        exact .inr h
      · rw [if_neg (Ne.symm hk)]
        simp only [List.map_cons, List.mem_cons]
        exact h.imp id fun h => ih he h

theorem queueLive_renumberOrders {c : Core} (r : QueueLive c) : QueueLive (renumberOrders c) := by
  unfold renumberOrders
  split
  · exact r
  · have rank_lt : ∀ o o', (∃ i ∈ live c, i.order = o) → o < o' →
        ((live c).filter fun i => i.order < o).length + 1 < ((live c).filter fun i => i.order < o').length + 1 := by
      rintro o o' ⟨i, hi, rfl⟩ ho
      have hsub : ((live c).filter fun x => x.order < i.order).length
          < ((live c).filter fun x => x.order < o').length := by
        have e : (live c).filter (fun x => x.order < i.order)
            = ((live c).filter fun x => x.order < o').filter fun x => x.order < i.order := by
          rw [List.filter_filter]
          apply List.filter_congr
          intro x _
          simp only [decide_eq_decide, ← Bool.decide_and]
          omega
        rw [e]
        refine List.length_filter_lt_length_iff_exists.mpr ⟨i, ?_, by simp⟩
        rw [List.mem_filter]
        exact ⟨hi, by simpa using ho⟩
      omega
    refine ⟨?_, ?_⟩
    · dsimp only
      rw [List.nodup_iff_pairwise_ne, List.pairwise_map]
      refine List.Pairwise.imp_of_mem (R := (· ≠ ·)) ?_ r.nodup
      intro o o' ho ho' hne e
      apply hne
      rcases Nat.lt_trichotomy o o' with h | h | h
      · have := rank_lt o o' (r.live o ho) h
        omega
      · exact h
      · have := rank_lt o' o (r.live o' ho') h
        omega
    · intro o ho
      dsimp only at ho
      rw [List.mem_map] at ho
      obtain ⟨q, hq, rfl⟩ := ho
      obtain ⟨i, hi, rfl⟩ := r.live q hq
      simp only [live, List.mem_map] at hi
      obtain ⟨p, hp, rfl⟩ := hi
      refine ⟨{ p.2 with order := ((live c).filter fun i => i.order < p.2.order).length + 1 }, ?_, rfl⟩
      simp only [live, List.mem_map]
      exact ⟨_, ⟨p, hp, rfl⟩, rfl⟩

/-- Every operation of the deciding blocks keeps the plan queue so. -/
theorem queueLive (h : Moves nv a c) : QueueLive a → QueueLive c := by
  induction h with
  | refl => exact id
  | trans _ _ i k => exact fun r => k (i r)
  | notify kind n v g code c =>
    unfold Machine.notify
    split <;> exact fun r => ⟨r.nodup, r.live⟩
  | notifyTableError v g code c =>
    unfold Machine.notifyTableError
    dsimp only
    repeat' split
    all_goals exact fun r => ⟨r.nodup, r.live⟩
  | eachIncident f hf x y c =>
    refine fun r => ⟨r.nodup, fun o ho => ?_⟩
    obtain ⟨i, hi, rfl⟩ := r.live o ho
    simp only [live, List.mem_map] at hi
    obtain ⟨p, hp, rfl⟩ := hi
    refine ⟨f p, ?_, (hf p).2.2.2.2.2.2⟩
    simp only [live, List.map_map, List.mem_map]
    exact ⟨p, hp, rfl⟩
  | newIncident e i n x ps c he =>
    refine fun r => ⟨r.nodup, fun o ho => ?_⟩
    obtain ⟨j, hj, rfl⟩ := r.live o ho
    refine ⟨j, live_put ?_ hj, rfl⟩
    have := (List.mem_filter.mp he).2
    simpa using this
  | remove n c =>
    refine fun r => ⟨r.nodup.sublist List.filter_sublist, fun o ho => ?_⟩
    have h := (List.mem_filter.mp ho).2
    rw [List.any_eq_true] at h
    obtain ⟨i, hi, e⟩ := h
    exact ⟨i, hi, by simpa using e⟩
  | renumber c => exact queueLive_renumberOrders
  | join n c =>
    unfold joinQueue
    split
    · next i e =>
      split
      · exact id
      · next hn =>
        refine fun r => ⟨?_, fun o ho => ?_⟩
        · dsimp only
          rw [List.nodup_append]
          refine ⟨r.nodup, by simp, fun x hx y hy => ?_⟩
          simp only [List.mem_singleton] at hy
          subst hy
          rintro rfl
          exact hn (by simpa using hx)
        · dsimp only at ho
          rw [List.mem_append, List.mem_singleton] at ho
          rcases ho with h | rfl
          · exact r.live o h
          · exact ⟨i, List.mem_of_find?_eq_some e, rfl⟩
    · exact id
  | dropQueued q c hq => exact fun r => r.sublist hq
  | _ => exact fun r => ⟨r.nodup, r.live⟩

end Sys2Proof.Machine.Moves
end

