-- ==== Sys2Proof/Laws/Outputs.lean ====
section
/-! SUPPORT. What the outputs may change when they come to rest at the end of an event (01 R14, R17): cite `settle_only` in place of
unfolding `settle`. -/

namespace Sys2Proof.Machine

/-- An answer with its transmission forgotten. -/
def Answer.atRest (a : Answer) : Answer := { a with sending := false }

/-- Only what leaves the part differs: outputs, drive copies, headers, the marks of frames in transmission, and the notices the
head of the queue has lost. -/
structure OutputsOnly (s t : State) : Prop where
  nv : t.nv = s.nv
  handler : t.handler = s.handler
  lines : t.lines = s.lines
  fresh : t.fresh = s.fresh
  pending : t.pending = s.pending
  ts : t.core.ts = s.core.ts
  wu : t.core.wu = s.core.wu
  lu : t.core.lu = s.core.lu
  ic : t.core.ic = s.core.ic
  ip : t.core.ip = s.core.ip
  valves : t.core.ds.valves = s.core.ds.valves
  slots : t.core.ds.slots = s.core.ds.slots
  lost : t.core.log.lost = s.core.log.lost
  time : t.core.log.time = s.core.log.time
  notices : ∃ k, t.core.log.notices = s.core.log.notices.drop k
  retired : t.ring.retired = s.ring.retired
  badFrame : t.ring.badFrame = s.ring.badFrame
  overflow : t.ring.overflow = s.ring.overflow
  refusedSource : t.ring.refusedSource = s.ring.refusedSource
  bypass : t.ring.bypass = s.ring.bypass
  up : ∀ p, t.ring.isUp p = s.ring.isUp p
  buffers : t.ring.buffers.map Buffered.port = s.ring.buffers.map Buffered.port
  answers : t.ring.answers.map Answer.atRest = s.ring.answers.map Answer.atRest

namespace OutputsOnly

theorem refl (s : State) : OutputsOnly s s :=
  ⟨rfl, rfl, rfl, rfl, rfl, rfl, rfl, rfl, rfl, rfl, rfl, rfl, rfl, rfl, ⟨0, rfl⟩, rfl, rfl, rfl, rfl, rfl, fun _ => rfl, rfl, rfl⟩

theorem trans {s t u : State} (h : OutputsOnly s t) (k : OutputsOnly t u) : OutputsOnly s u where
  nv := k.nv.trans h.nv
  handler := k.handler.trans h.handler
  lines := k.lines.trans h.lines
  fresh := k.fresh.trans h.fresh
  pending := k.pending.trans h.pending
  ts := k.ts.trans h.ts
  wu := k.wu.trans h.wu
  lu := k.lu.trans h.lu
  ic := k.ic.trans h.ic
  ip := k.ip.trans h.ip
  valves := k.valves.trans h.valves
  slots := k.slots.trans h.slots
  lost := k.lost.trans h.lost
  time := k.time.trans h.time
  notices := by
    obtain ⟨m, e⟩ := h.notices
    obtain ⟨n, e'⟩ := k.notices
    exact ⟨m + n, by rw [e', e, List.drop_drop]⟩
  retired := k.retired.trans h.retired
  badFrame := k.badFrame.trans h.badFrame
  overflow := k.overflow.trans h.overflow
  refusedSource := k.refusedSource.trans h.refusedSource
  bypass := k.bypass.trans h.bypass
  up p := (k.up p).trans (h.up p)
  buffers := k.buffers.trans h.buffers
  answers := k.answers.trans h.answers

end OutputsOnly

/-- A change of the ring alone that is one of the outputs. -/
structure RingOutputs (r q : Ring) : Prop where
  retired : q.retired = r.retired
  badFrame : q.badFrame = r.badFrame
  overflow : q.overflow = r.overflow
  refusedSource : q.refusedSource = r.refusedSource
  bypass : q.bypass = r.bypass
  up : ∀ p, q.isUp p = r.isUp p
  buffers : q.buffers.map Buffered.port = r.buffers.map Buffered.port
  answers : q.answers.map Answer.atRest = r.answers.map Answer.atRest

theorem RingOutputs.refl (r : Ring) : RingOutputs r r := ⟨rfl, rfl, rfl, rfl, rfl, fun _ => rfl, rfl, rfl⟩

theorem RingOutputs.trans {r q p : Ring} (h : RingOutputs r q) (k : RingOutputs q p) : RingOutputs r p :=
  ⟨k.retired.trans h.retired, k.badFrame.trans h.badFrame, k.overflow.trans h.overflow,
    k.refusedSource.trans h.refusedSource, k.bypass.trans h.bypass, fun x => (k.up x).trans (h.up x),
    k.buffers.trans h.buffers, k.answers.trans h.answers⟩

theorem OutputsOnly.ofRing (s : State) {r : Ring} (h : RingOutputs s.ring r) : OutputsOnly s { s with ring := r } :=
  { OutputsOnly.refl s with
    retired := h.retired, badFrame := h.badFrame, overflow := h.overflow, refusedSource := h.refusedSource
    bypass := h.bypass, up := h.up, buffers := h.buffers, answers := h.answers }

namespace RingOutputs

theorem setPort (r : Ring) (p : Port) (x : PortState) (h : x.up = (r.port p).up) : RingOutputs r (r.setPort p x) := by
  refine ⟨?_, ?_, ?_, ?_, ?_, ?_, ?_, ?_⟩
  all_goals cases p
  all_goals first
    | rfl
    | (intro q; cases q <;> first
        | exact h
        | rfl)

theorem startSending (p : Port) (f : List Byte) (w : Sent) (r : Ring) : RingOutputs r (startSending p f w r) :=
  setPort r p _ rfl

theorem newHeader (nv : Nv) (d : Byte) (r : Ring) : RingOutputs r (newHeader nv d r).2 :=
  ⟨rfl, rfl, rfl, rfl, rfl, fun p => by cases p <;> rfl, rfl, rfl⟩

theorem headerFor (nv : Nv) (d : Byte) (k : Option Header) (r : Ring) : RingOutputs r (headerFor nv d k r).2 := by
  cases k
  · exact newHeader nv d r
  · exact refl r

theorem markAnswer (p : Port) : ∀ as : List Answer, (Machine.markAnswer p as).map Answer.atRest = as.map Answer.atRest
  | [] => rfl
  | a :: as => by
    unfold Machine.markAnswer
    split
    · rfl
    · simp [markAnswer p as]

theorem markForward (p : Port) : ∀ bs : List Buffered, (Machine.markForward p bs).map Buffered.port = bs.map Buffered.port
  | [] => rfl
  | b :: bs => by
    unfold Machine.markForward
    split
    · rfl
    · simp [markForward p bs]

theorem sendDrive (nv : Nv) (p : Port) (x : DriveCopy) (r : Ring) : RingOutputs r (sendDrive nv p x r) := by
  unfold Machine.sendDrive
  dsimp only
  refine (headerFor nv (BitVec.ofNat 8 x.drive.station) x.header r).trans ?_
  generalize (Machine.headerFor nv (BitVec.ofNat 8 x.drive.station) x.header r).2 = q
  generalize (Machine.headerFor nv (BitVec.ofNat 8 x.drive.station) x.header r).1 = hd
  refine trans (q := { q with east := noteHeader x.drive.slot hd q.east, west := noteHeader x.drive.slot hd q.west }) ?_ ?_
  · exact ⟨rfl, rfl, rfl, rfl, rfl, fun y => by cases y <;> rfl, rfl, rfl⟩
  · refine (setPort _ p _ ?_).trans (startSending ..)
    cases p <;> rfl

theorem sendAnswer (nv : Nv) (p : Port) (a : Answer) (r : Ring) : RingOutputs r (sendAnswer nv p a r) := by
  unfold Machine.sendAnswer
  dsimp only
  refine (newHeader nv a.origin.station r).trans (trans ?_ (startSending ..))
  exact ⟨rfl, rfl, rfl, rfl, rfl, fun y => by cases y <;> rfl, rfl, markAnswer p _⟩

theorem sendNotice (nv : Nv) (p : Port) (n : Notice) (r : Ring) : RingOutputs r (sendNotice nv p n r) := by
  unfold Machine.sendNotice
  dsimp only
  refine (headerFor nv (BitVec.ofNat 8 nv.settings.primary) r.head.header r).trans (trans ?_ (startSending ..))
  exact ⟨rfl, rfl, rfl, rfl, rfl, fun y => by cases y <;> rfl, rfl, rfl⟩

theorem portOrder_up (o : DriveOrder) (x : PortState) : (portOrder o x).up = x.up := by
  unfold portOrder
  split
  · split <;> rfl
  · rfl

theorem driveOrder (r : Ring) (o : DriveOrder) : RingOutputs r (driveOrder r o) :=
  ⟨rfl, rfl, rfl, rfl, rfl, fun y => by cases y <;> exact portOrder_up .., rfl, rfl⟩

theorem driveOrders : ∀ (os : List DriveOrder) (r : Ring), RingOutputs r (os.foldl Machine.driveOrder r)
  | [], r => refl r
  | o :: os, r => (driveOrder r o).trans (driveOrders os _)

end RingOutputs

theorem deliver_only (s : State) : OutputsOnly s (deliver s) :=
  have h := RingOutputs.driveOrders s.core.ds.outbox s.ring
  ⟨rfl, rfl, rfl, rfl, rfl, rfl, rfl, rfl, rfl, rfl, rfl, rfl, rfl, rfl, ⟨0, rfl⟩, h.retired, h.badFrame, h.overflow,
    h.refusedSource, h.bypass, h.up, h.buffers, h.answers⟩

theorem popHead_only (s : State) : OutputsOnly s (popHead s) := by
  unfold popHead
  split
  · exact ⟨rfl, rfl, rfl, rfl, rfl, rfl, rfl, rfl, rfl, rfl, rfl, rfl, rfl, rfl, ⟨1, rfl⟩, rfl, rfl, rfl, rfl, rfl,
      fun y => by cases y <;> rfl, rfl, rfl⟩
  · exact .refl s

theorem discardHead_only (p : Port) (s : State) : OutputsOnly s (discardHead p s) := by
  unfold discardHead
  split
  · refine (OutputsOnly.ofRing s ?_).trans (popHead_only _)
    exact ⟨rfl, rfl, rfl, rfl, rfl, fun y => by cases y <;> rfl, rfl, rfl⟩
  · exact .refl s

theorem arbitrate_only (p : Port) (s : State) : OutputsOnly s (arbitrate p s) := by
  unfold arbitrate
  dsimp only
  split
  · split
    · exact .ofRing s (.sendDrive ..)
    · refine .ofRing s (RingOutputs.trans ?_ (.startSending ..))
      exact ⟨rfl, rfl, rfl, rfl, rfl, fun y => by cases y <;> rfl, RingOutputs.markForward p _, rfl⟩
    · exact .ofRing s (.sendAnswer ..)
    · split
      · exact .refl s
      · exact (OutputsOnly.ofRing s (.sendNotice ..)).trans (popHead_only _)
    · exact .refl s
  · exact .refl s

theorem takingRound_only (s : State) : OutputsOnly s (takingRound s) :=
  ((discardHead_only .east s).trans (discardHead_only .west _)).trans
    ((arbitrate_only .east _).trans (arbitrate_only .west _))

theorem endEvent_only (s : State) : OutputsOnly s (endEvent s) :=
  ⟨rfl, rfl, rfl, rfl, rfl, rfl, rfl, rfl, rfl, rfl, rfl, rfl, rfl, rfl, ⟨0, rfl⟩, rfl, rfl, rfl, rfl, rfl, fun _ => rfl, rfl, rfl⟩

/-- The outputs' coming to rest changes only what leaves the part. -/
theorem settle_only (s : State) : OutputsOnly s (settle s) :=
  (deliver_only s).trans
    ((((takingRound_only _).trans (takingRound_only _)).trans ((takingRound_only _).trans (takingRound_only _))).trans
      (endEvent_only _))

/-! ### What is marked in transmission -/

/-- The first buffer that awaits an output is marked, and no other. -/
theorem markForward_first {p : Port} {g : List Byte} {post : List Buffered} : ∀ {pre : List Buffered},
    (∀ b ∈ pre, b.awaits p = none) →
    markForward p (pre ++ ⟨p.other, .forward g false⟩ :: post) = pre ++ ⟨p.other, .forward g true⟩ :: post
  | [], _ => by simp [markForward, Buffered.awaits]
  | b :: pre, h => by
    simp [markForward, h b List.mem_cons_self, markForward_first fun x hx => h x (List.mem_cons_of_mem b hx)]

/-- The first answer that waits at a port is marked, and no other. -/
theorem markAnswer_first {p : Port} {a : Answer} {post : List Answer} (ha : a.waitsAt p = true) : ∀ {pre : List Answer},
    (∀ b ∈ pre, b.waitsAt p = false) → markAnswer p (pre ++ a :: post) = pre ++ { a with sending := true } :: post
  | [], _ => by simp [markAnswer, ha]
  | b :: pre, h => by
    simp [markAnswer, h b List.mem_cons_self, markAnswer_first ha fun x hx => h x (List.mem_cons_of_mem b hx)]

/-! ### The seam of the notice queue at the end of an event -/

/-- A state with another seam in its notice queue. -/
def State.withSeam (k : Nat) (s : State) : State := { s with core := { s.core with log := { s.core.log with seam := k } } }

@[simp] theorem withSeam_ring (k : Nat) (s : State) : (s.withSeam k).ring = s.ring := rfl
@[simp] theorem withSeam_nv (k : Nat) (s : State) : (s.withSeam k).nv = s.nv := rfl
@[simp] theorem withSeam_notices (k : Nat) (s : State) : (s.withSeam k).core.log.notices = s.core.log.notices := rfl

theorem popHead_withSeam (k : Nat) (s : State) : popHead (s.withSeam k) = (popHead s).withSeam k := by
  unfold popHead State.withSeam
  dsimp only
  split <;> rfl

theorem discardHead_withSeam (k : Nat) (p : Port) (s : State) :
    discardHead p (s.withSeam k) = (discardHead p s).withSeam k := by
  unfold discardHead
  by_cases h : s.core.log.notices ≠ [] ∧ s.ring.isUp p = false ∧ s.ring.isUp p.other = true
  · rw [if_pos h, if_pos (c := (s.withSeam k).core.log.notices ≠ [] ∧ (s.withSeam k).ring.isUp p = false
      ∧ (s.withSeam k).ring.isUp p.other = true) h]
    exact popHead_withSeam k { s with ring := { s.ring with head := s.ring.head.take p } }
  · rw [if_neg h, if_neg (c := (s.withSeam k).core.log.notices ≠ [] ∧ (s.withSeam k).ring.isUp p = false
      ∧ (s.withSeam k).ring.isUp p.other = true) h]

theorem arbitrate_withSeam (k : Nat) (p : Port) (s : State) : arbitrate p (s.withSeam k) = (arbitrate p s).withSeam k := by
  unfold arbitrate
  dsimp only
  by_cases h : (s.ring.port p).up = true ∧ (s.ring.port p).output = .idle
  · rw [if_pos h, if_pos (c := ((s.withSeam k).ring.port p).up = true ∧ ((s.withSeam k).ring.port p).output = .idle) h]
    simp only [withSeam_ring, withSeam_nv, withSeam_notices]
    split
    · rfl
    · rfl
    · rfl
    · by_cases ht : s.ring.head.taken p = true
      · rw [if_pos ht]
        exact if_pos ht
      · rw [if_neg ht]
        exact (if_neg ht).trans (popHead_withSeam k { s with ring := sendNotice s.nv p _ s.ring })
    · rfl
  · rw [if_neg h, if_neg (c := ((s.withSeam k).ring.port p).up = true ∧ ((s.withSeam k).ring.port p).output = .idle) h]

theorem takingRound_withSeam (k : Nat) (s : State) : takingRound (s.withSeam k) = (takingRound s).withSeam k := by
  simp only [takingRound, discardHead_withSeam, arbitrate_withSeam]

/-- Where the notices of the event just ending would have joined no longer matters. -/
theorem settle_endEvent (s : State) : settle (endEvent s) = settle s := by
  have h : ∀ k, settle (s.withSeam k) = settle s := fun k => by
    have e : deliver (s.withSeam k) = (deliver s).withSeam k := rfl
    simp only [settle, e, takingRound_withSeam]
    rfl
  exact h _

/-! ### The two copies of a DRIVE (01 R15, 08 R150) -/

/-- A DRIVE handed to a queue waits in it. -/
theorem mem_queueDrive (d : Drive) (xs : List DriveCopy) : (⟨d, none, false⟩ : DriveCopy) ∈ queueDrive d xs := by
  unfold queueDrive
  split
  · next h =>
    obtain ⟨x, hx, hw⟩ := List.any_eq_true.1 h
    exact List.mem_map.2 ⟨x, hx, if_pos hw⟩
  · exact List.mem_append_right _ (List.mem_singleton_self _)

/-- With its link UP a port has a waiting copy of the DRIVE issued (01 R15). -/
theorem mem_portOrder_issue (d : Drive) (x : PortState) (h : x.up = true) :
    (⟨d, none, false⟩ : DriveCopy) ∈ (portOrder (.issue d) x).drives := by
  rw [portOrder, if_pos h]
  exact mem_queueDrive d x.drives

/-- With both links UP a DRIVE issued waits as two copies of one token, one at each port (08 R150). -/
theorem mem_driveOrder_issue (d : Drive) (r : Ring) (h : ∀ p, r.isUp p = true) (p : Port) :
    (⟨d, none, false⟩ : DriveCopy) ∈ ((driveOrder r (.issue d)).port p).drives := by
  cases p
  · exact mem_portOrder_issue d r.east (h .east)
  · exact mem_portOrder_issue d r.west (h .west)

end Sys2Proof.Machine
end

