-- ==== Sys2Proof/Laws/Reads.lean ====
section
/-! SUPPORT. What the reads of the active bank and the Locate Unit's recomputations leave alone: cite `luUpdate_only` in place of
unfolding `luUpdate`. And what a read marks, which channels an act on a segment or an incident is for, and when an incident has
no more to move. -/

namespace Sys2Proof.Machine

/-- The Watch Unit, the Incident Controller, the Isolation Planner and the Drive Sequencer stay as they are, and so does the
Table Store but for the condition map and the table-corrections counter. -/
structure LocateOnly (c d : Core) : Prop where
  wu : d.wu = c.wu
  ic : d.ic = c.ic
  ip : d.ip = c.ip
  ds : d.ds = c.ds
  valid : d.ts.valid = c.ts.valid
  checking : d.ts.checking = c.ts.checking
  dynamic : d.ts.dynamic = c.ts.dynamic
  lock : d.ts.lock = c.ts.lock
  shadow : d.ts.shadow = c.ts.shadow
  window : d.ts.window = c.ts.window
  compile : d.ts.compile = c.ts.compile
  last : d.ts.last = c.ts.last
  time : d.log.time = c.log.time

namespace LocateOnly

variable {a c d : Core}

theorem refl (c : Core) : LocateOnly c c := ⟨rfl, rfl, rfl, rfl, rfl, rfl, rfl, rfl, rfl, rfl, rfl, rfl, rfl⟩

theorem trans (h : LocateOnly a c) (k : LocateOnly c d) : LocateOnly a d :=
  ⟨k.wu.trans h.wu, k.ic.trans h.ic, k.ip.trans h.ip, k.ds.trans h.ds, k.valid.trans h.valid,
    k.checking.trans h.checking, k.dynamic.trans h.dynamic, k.lock.trans h.lock, k.shadow.trans h.shadow,
    k.window.trans h.window, k.compile.trans h.compile, k.last.trans h.last, k.time.trans h.time⟩

theorem foldl {β : Type} {f : Core → β → Core} (hf : ∀ (c : Core) (x : β), LocateOnly c (f c x)) :
    ∀ (xs : List β) (c : Core), LocateOnly c (xs.foldl f c)
  | [], c => refl c
  | x :: xs, c => (hf c x).trans (foldl hf xs _)

end LocateOnly

open LocateOnly

theorem notifyTableError_only (v g code : Nat) (c : Core) : LocateOnly c (notifyTableError v g code c) := by
  unfold notifyTableError
  dsimp only
  repeat' split
  all_goals exact ⟨rfl, rfl, rfl, rfl, rfl, rfl, rfl, rfl, rfl, rfl, rfl, rfl, rfl⟩

theorem tableError_only (p : Place) (k : Nat) (c : Core) : LocateOnly c (tableError p k c) := by
  unfold tableError
  cases p.area <;> exact notifyTableError_only ..

theorem touchPlace_only (nv : Nv) (p : Place) (c : Core) : LocateOnly c (touchPlace nv p c) := by
  unfold touchPlace
  split
  · exact .refl c
  · exact .refl c
  · exact .refl c
  · refine LocateOnly.trans ?_ (tableError_only ..)
    exact ⟨rfl, rfl, rfl, rfl, rfl, rfl, rfl, rfl, rfl, rfl, rfl, rfl, rfl⟩
  · refine LocateOnly.trans ?_ (tableError_only ..)
    exact ⟨rfl, rfl, rfl, rfl, rfl, rfl, rfl, rfl, rfl, rfl, rfl, rfl, rfl⟩

theorem touchEntry_only (nv : Nv) (t : TableName) (i : Nat) (c : Core) : LocateOnly c (touchEntry nv t i c) := by
  unfold touchEntry
  split
  · exact touchPlace_only ..
  · exact .refl c

theorem touchIndex_only (nv : Nv) (x : Area) (i : Nat) (c : Core) : LocateOnly c (touchIndex nv x i c) := by
  unfold touchIndex
  split
  · exact touchPlace_only ..
  · exact .refl c

theorem touchTerm_only (nv : Nv) (c : Core) (i : Nat) : LocateOnly c (touchTerm nv c i) := by
  unfold touchTerm
  dsimp only
  split
  · split
    · exact (touchEntry_only ..).trans (touchEntry_only ..)
    · exact touchEntry_only ..
  · exact touchEntry_only ..
  · exact touchEntry_only ..

theorem touchSegment_only (nv : Nv) (g : Nat) (c : Core) : LocateOnly c (touchSegment nv g c) := by
  have h : LocateOnly c (touchIndex nv .segmentIndex g (touchEntry nv .segment g c)) :=
    (touchEntry_only ..).trans (touchIndex_only ..)
  unfold touchSegment
  dsimp only
  split
  · exact h
  · exact h.trans (LocateOnly.foldl (touchTerm_only nv) _ _)

theorem rescore_only (nv : Nv) (g : Nat) (c : Core) : LocateOnly c (rescore nv g c) :=
  (touchSegment_only nv g c).trans ⟨rfl, rfl, rfl, rfl, rfl, rfl, rfl, rfl, rfl, rfl, rfl, rfl, rfl⟩

theorem testSegment_only (nv : Nv) (c : Core) (g : Nat) : LocateOnly c (testSegment nv c g) := by
  have h : LocateOnly c (touchEntry nv .segment g c) := touchEntry_only ..
  unfold testSegment
  dsimp only
  split
  · split
    · exact h.trans ⟨rfl, rfl, rfl, rfl, rfl, rfl, rfl, rfl, rfl, rfl, rfl, rfl, rfl⟩
    · exact h
  · exact h
  · exact h

theorem updateScores_only (nv : Nv) : ∀ (n : Nat) (c : Core), LocateOnly c (updateScores nv n c)
  | 0, c => .refl c
  | n + 1, c => by
    unfold updateScores
    split
    · exact .refl c
    · refine LocateOnly.trans ?_ (updateScores_only nv n _)
      refine LocateOnly.trans (c := { c with lu := { c.lu with dirty := [] } })
        ⟨rfl, rfl, rfl, rfl, rfl, rfl, rfl, rfl, rfl, rfl, rfl, rfl, rfl⟩ ?_
      exact LocateOnly.foldl (fun c g => (rescore_only nv g c).trans (testSegment_only ..)) _ _

/-- Bringing the scores up to date changes only scores, windows, marks and notices (05 R81, R84). -/
theorem luUpdate_only (nv : Nv) (c : Core) : LocateOnly c (luUpdate nv c) := updateScores_only nv _ c

/-! ### The mark a read leaves -/

theorem tableError_map (p : Place) (k : Nat) (c : Core) : (tableError p k c).ts.map = c.ts.map := by
  unfold tableError notifyTableError
  cases p.area <;> (dsimp only; repeat' split) <;> rfl

/-- After a read a place is POISONED where it was so before, or where its check code shows two wrong bits (02 R29). -/
theorem markAt_touchPlace (nv : Nv) (p : Place) (c : Core) : markAt (touchPlace nv p c) p = some .poisoned ↔
    nv.active.wrongAt p = some .two ∨ markAt c p = some .poisoned := by
  unfold touchPlace
  cases hw : nv.active.wrongAt p with
  | none => simp
  | some w =>
    cases hm : markAt c p with
    | none => cases w <;> simp [markAt, tableError_map, markDirty, setMark, Sparse.at?_put_same]
    | some m => cases w <;> cases m <;> simp_all [markAt, tableError_map, markDirty, setMark, Sparse.at?_put_same]

/-! ### The channels of a segment, and of an incident -/

/-- Where no reset context meets a condition, the channels listed for it are those whose contexts meet it. -/
theorem mem_channelsWhere {c : Core} (h : c.wu.channels.wfD .reset = true) (f : Channel → Bool) (hf : f .reset = false)
    (i : Nat) : i ∈ (c.wu.channels.filter fun p => f p.2).map Prod.fst ↔ f (channelOf i c) = true := by
  simp only [Sparse.wfD, Bool.and_eq_true] at h
  simp only [List.mem_map, List.mem_filter, Prod.exists, exists_and_right, exists_eq_right,
    Sparse.mem_iff_at?_of_wf h.1, channelOf, Sparse.atD]
  cases c.wu.channels.at? i with
  | none => simp [hf]
  | some _ => simp

theorem mem_channelsAt {c : Core} (h : c.wu.channels.wfD .reset = true) (g i : Nat) :
    i ∈ channelsAt g c ↔ (channelOf i c).home = some g := by
  rw [channelsAt, mem_channelsWhere h (fun ch => ch.home == some g) rfl, beq_iff_eq]

theorem mem_attributedTo {c : Core} (h : c.wu.channels.wfD .reset = true) (n i : Nat) :
    i ∈ attributedTo n c ↔ (channelOf i c).state = .attributed ∧ (channelOf i c).incident = some n := by
  rw [attributedTo, mem_channelsWhere h (fun ch => ch.state == .attributed && ch.incident == some n) rfl,
    Bool.and_eq_true, beq_iff_eq, beq_iff_eq]

/-! ### What is left to move -/

theorem inFlight_iff (n : Nat) (c : Core) : inFlight n c = true ↔ ∃ p ∈ c.ds.slots, p.2.owner = n := by simp [inFlight]

theorem ended_iff (p : Progress) : p.ended = true ↔ p ≠ .queued ∧ p ≠ .inMotion := by cases p <;> simp [Progress.ended]

/-- With nothing to recompute, nothing is recomputed. -/
theorem luUpdate_clean (nv : Nv) (c : Core) (h : c.lu.dirty = []) : luUpdate nv c = c := by
  unfold luUpdate updateScores
  rw [h]

end Sys2Proof.Machine
end

