-- ==== Sys2Proof/Laws/Requests.lean ====
section
/-! SUPPORT. What the arrival of a request comes to where the handler takes it at once: cite these in place of unfolding
`requestRow`. -/

namespace Sys2Proof.Machine

theorem takeHeld_append (p : Port) (station : Byte) (body : List Byte) :
    ∀ bs : List Buffered, takeHeld bs = none →
      takeHeld (bs ++ [⟨p, .request station body⟩]) = some ((p, station, body), bs)
  | [], _ => rfl
  | ⟨q, .request st b⟩ :: bs, h => by simp [takeHeld] at h
  | ⟨q, .forward f x⟩ :: bs, h => by
    simp only [takeHeld, Option.map_eq_none_iff] at h
    simp [takeHeld, takeHeld_append p station body bs h]

theorem takeHeld_filter : ∀ bs : List Buffered, takeHeld (bs.filter Buffered.isForward) = none
  | [] => rfl
  | ⟨q, .request st b⟩ :: bs => by simpa [Buffered.isForward] using takeHeld_filter bs
  | ⟨q, .forward f x⟩ :: bs => by
    have h : (⟨q, .forward f x⟩ :: bs : List Buffered).filter Buffered.isForward
        = ⟨q, .forward f x⟩ :: bs.filter Buffered.isForward := rfl
    rw [h]
    simp [takeHeld, takeHeld_filter bs]

theorem joinAnswers_held (a : Answer) (s : State) (h : takeHeld s.ring.buffers = none) :
    takeHeld (joinAnswers a s).ring.buffers = none := by
  unfold joinAnswers
  split
  · exact h
  · split
    · exact takeHeld_filter _
    · exact h

theorem handReply_held (o : Origin) (r : Reply) (s : State) (h : takeHeld s.ring.buffers = none) :
    takeHeld (handReply o r s).ring.buffers = none := by
  unfold handReply
  split
  · unfold handAnswer
    split
    · exact joinAnswers_held _ _ h
    · exact h
  · exact h
  · unfold handAnswer
    split
    · exact joinAnswers_held _ _ h
    · exact h

theorem takeRequests_held (n : Nat) (s : State) (h : takeHeld s.ring.buffers = none) : takeRequests n s = s := by
  cases n
  · rfl
  · unfold takeRequests
    rw [h]
    cases s.handler <;> rfl

/-- A request from a manager, at an UP port with a free buffer, with no other request held and the handler READY, is taken in the
event of its arrival (01 R9, 09 R174). -/
theorem requestArrives_taken (p : Port) (station : Byte) (body : List Byte) (s : State)
    (hup : s.ring.isUp p = true) (hroom : s.ring.occupied p < Config.buffers) (hown : ownSource s station = false)
    (hman : isManager s.nv.settings station = true) (hready : s.handler = .ready)
    (hheld : takeHeld s.ring.buffers = none) :
    requestArrives p station body s = endEvent (takeRequest p station body s) := by
  have h1 : requestArrives p station body s = serve { s with ring := s.ring.hold p (.request station body) } := by
    unfold requestArrives
    rw [hup, hown]
    simp only [Bool.true_eq_false, if_false, Nat.not_le.mpr hroom, Bool.false_eq_true]
    unfold consumeRequest
    rw [hman]
    rfl
  rw [h1]
  unfold serve
  have hl : (Ring.hold s.ring p (.request station body)).buffers.length = s.ring.buffers.length + 1 := by
    simp [Ring.hold]
  rw [hl]
  unfold takeRequests
  have ht := takeHeld_append p station body _ hheld
  simp only [Ring.hold, hready, ht]
  rw [takeRequests_held]
  · rw [← hready]
  · exact handReply_held _ _ _ hheld

/-! ### Where a formed answer goes (01 R16, 09 R174) -/

theorem handAnswer_bound {a : Answer} {s : State} (hroom : s.ring.answers.length < Config.answerPlaces)
    (hup : s.ring.isUp a.origin.port = true) : handAnswer a s = { s with
      ring := { s.ring with answers := s.ring.answers ++ [a] }
      handler := if a.softReset then .resetPending else .ready } := by
  rw [handAnswer, if_pos hroom, joinAnswers, bindPort, if_pos hup]

theorem handAnswer_rebound {a : Answer} {s : State} (hroom : s.ring.answers.length < Config.answerPlaces)
    (hdown : s.ring.isUp a.origin.port = false) (hup : s.ring.isUp a.origin.port.other = true) : handAnswer a s = { s with
      ring := { s.ring with
        answers := s.ring.answers ++ [{ a with origin := { a.origin with port := a.origin.port.other } }] }
      handler := if a.softReset then .resetPending else .ready } := by
  rw [handAnswer, if_pos hroom, joinAnswers, bindPort, hdown, hup]
  rfl

theorem handAnswer_discarded {a : Answer} {s : State} (hroom : s.ring.answers.length < Config.answerPlaces)
    (hdown : s.ring.isUp a.origin.port = false) (hother : s.ring.isUp a.origin.port.other = false) :
    handAnswer a s = if a.softReset then softReset s else { s with handler := .ready } := by
  rw [handAnswer, if_pos hroom, joinAnswers, bindPort, hdown, hother]
  rfl

theorem handAnswer_full {a : Answer} {s : State} (hfull : ¬s.ring.answers.length < Config.answerPlaces) :
    handAnswer a s = { s with handler := .waiting a } := if_neg hfull

/-- A handler that is not READY takes no request. -/
theorem serve_busy {s : State} (h : s.handler ≠ .ready) : serve s = s := by
  unfold serve
  generalize s.ring.buffers.length = n
  cases n with
  | zero => rfl
  | succ n =>
    unfold takeRequests
    split
    · next e _ => exact absurd e h
    · rfl

/-- A reply that is an answer joins the answer queue, bound to the port of its request (01 R16, 09 R174). -/
theorem handReply_answer (o : Origin) (r : Result) (d : List Byte) (s : State) (hup : s.ring.isUp o.port = true)
    (hroom : s.ring.answers.length < Config.answerPlaces) :
    handReply o (.answer r d) s
      = { s with ring := { s.ring with answers := s.ring.answers ++ [⟨o, r, d, false, false⟩] }, handler := .ready } := by
  unfold handReply
  dsimp only
  unfold handAnswer
  rw [if_pos hroom]
  unfold joinAnswers bindPort
  simp only [Origin.answer, hup, if_true]
  rfl

/-- SOFT RESET's answer joins the answer queue and the handler becomes RESET_PENDING (09 R183). -/
theorem handReply_softReset (o : Origin) (s : State) (hup : s.ring.isUp o.port = true)
    (hroom : s.ring.answers.length < Config.answerPlaces) :
    handReply o .softReset s
      = { s with ring := { s.ring with answers := s.ring.answers ++ [⟨o, .done, [], true, false⟩] }
                 handler := .resetPending } := by
  unfold handReply
  dsimp only
  unfold handAnswer
  rw [if_pos hroom]
  unfold joinAnswers bindPort
  simp only [Origin.answer, hup, if_true]

/-- The event of a request's arrival, where it is taken at once. -/
theorem requestRow_taken (kind : Byte) (q : Request) (s : State) (hup : s.ring.isUp q.port = true)
    (hroom : s.ring.occupied q.port < Config.buffers) (hown : ownSource s q.station = false)
    (hman : isManager s.nv.settings q.station = true) (hready : s.handler = .ready)
    (hheld : takeHeld s.ring.buffers = none) :
    requestRow kind q s = settle (takeRequest q.port q.station (kind :: q.tag :: q.args) s) := by
  unfold requestRow
  rw [requestArrives_taken _ _ _ _ hup hroom hown hman hready hheld, settle_endEvent]

/-- The blocks as the handler takes a request: the load window closed but for LOAD DATA and FILL (03 R40). -/
theorem takeRequest_eq (p : Port) (station kind tag : Byte) (args : List Byte) (s : State) (x : Carried)
    (hx : carry s.nv s.ring (if keepsWindow (kind :: tag :: args) then s.core else closeLoad s.core)
      ⟨p, station, kind, tag⟩ (kind :: tag :: args) = x) :
    takeRequest p station (kind :: tag :: args) s
      = handReply ⟨p, station, kind, tag⟩ x.reply { s with nv := x.nv, core := x.core } := by
  subst hx
  rfl

/-- A row whose request is taken at once and answered in its event: its answer joins, and the outputs come to rest. -/
theorem requestRow_answer (kind : Byte) (q : Request) (s : State) (r : Result) (d : List Byte) (nv : Nv) (c : Core)
    (hup : s.ring.isUp q.port = true) (hroom : s.ring.occupied q.port < Config.buffers)
    (hown : ownSource s q.station = false) (hman : isManager s.nv.settings q.station = true)
    (hready : s.handler = .ready) (hheld : takeHeld s.ring.buffers = none)
    (hplace : s.ring.answers.length < Config.answerPlaces)
    (hx : carry s.nv s.ring (if keepsWindow (kind :: q.tag :: q.args) then s.core else closeLoad s.core)
      ⟨q.port, q.station, kind, q.tag⟩ (kind :: q.tag :: q.args) = ⟨.answer r d, nv, c⟩) :
    requestRow kind q s = settle { s with
      nv := nv, core := c, handler := .ready
      ring := { s.ring with
        answers := s.ring.answers ++ [⟨⟨q.port, q.station, kind, q.tag⟩, r, d, false, false⟩] } } := by
  rw [requestRow_taken kind q s hup hroom hown hman hready hheld, takeRequest_eq _ _ _ _ _ _ _ hx]
  exact congrArg settle
    (handReply_answer ⟨q.port, q.station, kind, q.tag⟩ r d { s with nv := nv, core := c } hup hplace)

/-- A row whose request is taken at once and answered in its event, whatever the answer queue holds: the answer is handed on. -/
theorem requestRow_handed (kind : Byte) (q : Request) (s : State) (r : Result) (d : List Byte) (nv : Nv) (c : Core)
    (hup : s.ring.isUp q.port = true) (hroom : s.ring.occupied q.port < Config.buffers)
    (hown : ownSource s q.station = false) (hman : isManager s.nv.settings q.station = true)
    (hready : s.handler = .ready) (hheld : takeHeld s.ring.buffers = none)
    (hx : carry s.nv s.ring (if keepsWindow (kind :: q.tag :: q.args) then s.core else closeLoad s.core)
      ⟨q.port, q.station, kind, q.tag⟩ (kind :: q.tag :: q.args) = ⟨.answer r d, nv, c⟩) :
    requestRow kind q s = settle (handAnswer ⟨⟨q.port, q.station, kind, q.tag⟩, r, d, false, false⟩
      { s with nv := nv, core := c }) := by
  rw [requestRow_taken kind q s hup hroom hown hman hready hheld, takeRequest_eq _ _ _ _ _ _ _ hx]
  rfl

/-- What a request comes to does not depend on the answers queued (09 R174, R178). -/
theorem carry_answers (nv : Nv) (r : Ring) (as : List Answer) (c : Core) (o : Origin) (body : List Byte) :
    carry nv { r with answers := as } c o body = carry nv r c o body := by
  unfold carry
  split
  · split
    · split <;> rfl
    · rfl
  · rfl

/-- A row whose request is taken at once and takes time: the handler is WORKING (09 R177). -/
theorem requestRow_work (kind : Byte) (q : Request) (s : State) (j : Job) (nv : Nv) (c : Core)
    (hup : s.ring.isUp q.port = true) (hroom : s.ring.occupied q.port < Config.buffers)
    (hown : ownSource s q.station = false) (hman : isManager s.nv.settings q.station = true)
    (hready : s.handler = .ready) (hheld : takeHeld s.ring.buffers = none)
    (hx : carry s.nv s.ring (if keepsWindow (kind :: q.tag :: q.args) then s.core else closeLoad s.core)
      ⟨q.port, q.station, kind, q.tag⟩ (kind :: q.tag :: q.args) = ⟨.work j, nv, c⟩) :
    requestRow kind q s = settle { s with nv := nv, core := c, handler := .working j } := by
  rw [requestRow_taken kind q s hup hroom hown hman hready hheld, takeRequest_eq _ _ _ _ _ _ _ hx]
  rfl

end Sys2Proof.Machine
end

