-- ==== Sys2Proof/Safety.lean ====
section
/-! DEFINITION. What counts as a safe run: every step answers a next state. -/

namespace Sys2Proof

/-- A state from which `n` steps all answer a next state. -/
def safeFor : Nat → Machine.State → Prop
  | 0, _ => True
  | n + 1, s =>
    match Machine.step s with
    | .next t => safeFor n t
    | .fault _ => False
    | .refused _ => False

end Sys2Proof
end

