-- ==== Sys2Proof/Tests/Slice0.lean ====
section
/-! SUPPORT. Tests: ill-formed commands are refused by the check, the worked numbers of the spec come out, and every statement's
hypotheses are met together by a state and operands. -/

namespace Sys2Proof.Tests

set_option Elab.async false

open Sys2Proof Sys2Proof.Machine Sys2Proof.Claims

/-! ### Ill-formed commands -/

theorem test_ill_formed_window_zone : Instr.wellFormed (.windowExpiry 32) = false := by decide +kernel
theorem test_ill_formed_sensor : Instr.wellFormed (.stalenessExpiry 256) = false := by decide +kernel
theorem test_ill_formed_incident_zero : Instr.wellFormed (.confirmationExpiry 0) = false := by decide +kernel
theorem test_ill_formed_incident_high : Instr.wellFormed (.confirmationExpiry 256) = false := by decide +kernel
theorem test_ill_formed_response_slot : Instr.wellFormed (.responseTimerExpiry 8) = false := by decide +kernel
theorem test_ill_formed_stroke_slot : Instr.wellFormed (.strokeTimerExpiry 8) = false := by decide +kernel
theorem test_ill_formed_place : Instr.wellFormed (.startUpCheckComplete [⟨.stationIndex, 0⟩]) = false := by decide +kernel
theorem test_ill_formed_place_high : Instr.wellFormed (.startUpCheckComplete [⟨.valve, 1024⟩]) = false := by decide +kernel
theorem test_ill_formed_unwritten : Instr.wellFormed (.compileErrorEnd (some (.entry .sensor 256))) = false := by decide +kernel
theorem test_ill_formed_known_kind : Instr.wellFormed (.requestUnknownKind .east 1 [0x01, 7]) = false := by decide +kernel
theorem test_ill_formed_unknown_station : Instr.wellFormed (.requestUnknownKind .east 251 [0x06, 7]) = false := by decide +kernel
theorem test_ill_formed_request_station : Instr.wellFormed (.status ⟨.east, 0, 7, []⟩) = false := by decide +kernel
theorem test_ill_formed_request_length :
    Instr.wellFormed (.loadData ⟨.west, 1, 7, List.replicate 239 0⟩) = false := by decide +kernel
theorem test_well_formed_request : Instr.wellFormed (.loadData ⟨.west, 250, 7, List.replicate 238 0⟩) = true := by decide +kernel

/-! ### Worked numbers of the spec -/

theorem test_crc_of_digits : crc16 [0x31, 0x32, 0x33, 0x34, 0x35, 0x36, 0x37, 0x38, 0x39] = 0x29B1 := by decide +kernel
theorem test_stroke_budget_90 : strokeBudget 90 = 113 := by decide +kernel
theorem test_stroke_budget_10 : strokeBudget 10 = 13 := by decide +kernel
theorem test_token_wraps : nextToken { ValveStatus.reset with token := 255 } = 1 := by decide +kernel
theorem test_token_passes_echo : nextToken { ValveStatus.reset with token := 4, echo := 5 } = 6 := by decide +kernel
theorem test_generation_wraps : succGeneration 65535 = 1 ∧ succGeneration 0 = 1 := by decide +kernel

/-- Sensor P-17 of 04, section 4.8. -/
def p17 : SensorRecord := ⟨12, 0, 0, 38, 3, 120, 3, 30⟩

/-- Its context at the start of the example. -/
def quiet : Channel :=
  { Channel.reset with state := .quiet, seeded := true, baseline := 72344, timer := some 30000, home := some 38 }

/-- The context after readings. -/
def after (xs : List Nat) : Channel := xs.foldl (fun ch x => evaluated p17 x 0 ch) quiet

theorem test_p17_first : (after [4518]).baseline = 72337 ∧ (after [4518]).deviation = 3 := by decide +kernel
theorem test_p17_second : (after [4518, 4519]).baseline = 72333 := by decide +kernel
theorem test_p17_suspect :
    (after [4518, 4519, 4380]).state = .suspect ∧ (after [4518, 4519, 4380]).persistence = 1 := by decide +kernel
theorem test_p17_trips : (after [4518, 4519, 4380, 4371, 4366]).state = .tripped
    ∧ (after [4518, 4519, 4380, 4371, 4366]).deviation = 154
    ∧ (after [4518, 4519, 4380, 4371, 4366]).baseline = 72333 := by decide +kernel
theorem test_p17_releases : (after [4518, 4519, 4380, 4371, 4366, 4470, 4455, 4475, 4490, 4500]).state = .quiet
    ∧ (after [4518, 4519, 4380, 4371, 4366, 4470, 4455, 4475, 4490, 4500]).baseline = 72292 := by decide +kernel
theorem test_flow_deviation_held : deviationOf 1 1600 60000 = 4095 := by decide +kernel

/-! ### Small states -/

/-- The part started, both links UP, in table state NONE. -/
def started : State :=
  { State.reset with
    core := { cold 0 with log := ⟨[], 0, 0, 0⟩ }
    ring := { bypassed with bypass := false, east := ⟨true, .idle, []⟩, west := ⟨true, .idle, []⟩ } }

/-- A request of the primary manager at East. -/
def ask (args : List Byte) : Request := ⟨.east, 1, 7, args⟩

/-- The part started, with the blocks changed. -/
def withCore (f : Core → Core) : State := { started with core := f started.core }

/-- The part started, with a live incident 1 in a state. -/
def withIncident (st : IncidentState) (f : Incident → Incident) : State :=
  withCore fun c => { c with ic := { c.ic with table :=
    [(0, f { newIncident 1 5 1 ⟨0, 0, true, false, 1⟩ .manual 0 with state := st })] } }

/-- A present segment record of zone 3 with S_min 1 and SOURCE set. -/
def segment5 : Record := ⟨1, 3, 0, 1, 0, 1, 0, 0, 0, 0, 0, 0⟩

/-- The part started on a bank with segment 5 alone. -/
def withSegment : State :=
  { withCore fun c => { c with ts := { c.ts with valid := true } } with
    nv := { Nv.factory with bankA := ⟨⟨[(5, segment5)], [], [], []⟩, [], true⟩, generation := 1 } }

/-- A motion of incident 1 for valve 9 in slot 0. -/
def motion (ph : Phase) (again : Bool) : Motion :=
  ⟨ph, 9, .close, 1, 1, 0, 40, again, if ph = .issued then some 3000 else none, if ph = .moving then some 50000 else none⟩

/-- The part started, with a motion in slot 0. -/
def withMotion (ph : Phase) (again : Bool) : State :=
  withCore fun c => { c with ds := { c.ds with slots := [(0, motion ph again)] } }

/-- A frame that passes the check: destination, source, kind, body. -/
def frame (dest source kind : Byte) (body : List Byte) : List Byte := mkFrame ⟨dest, source, 40⟩ kind body

/-! ### One step -/

theorem test_step_hold_lock :
    (match step { started with pending := [.holdLock (ask [])] } with
      | .next t => t.core.ts.lock && t.pending.isEmpty && (t.ring.east.output != .idle)
      | _ => false) = true := by decide +kernel
theorem test_step_own_frame_is_stripped :
    (match exec (.frameArrival .east (frame 3 250 0x11 [])) started with
      | .next t => decide (t = started)
      | _ => false) = true := by decide +kernel
theorem test_step_bad_frame_counts :
    (match exec (.frameArrival .east [1, 2, 3]) started with
      | .next t => t.ring.badFrame == 1
      | _ => false) = true := by decide +kernel
theorem test_step_forwards :
    (match exec (.frameArrival .east (frame 3 4 0x55 [1])) started with
      | .next t => t.ring.west.output == .sending (frame 3 4 0x55 [1]) .forwarded
      | _ => false) = true := by decide +kernel
theorem test_step_power_on_with_reset_low :
    (match exec .powerOn { State.reset with lines := ⟨false, true, .line⟩ } with
      | .next t => decide (t = { State.reset with core := cold 0, lines := ⟨true, true, .power⟩ })
      | _ => false) = true := by decide +kernel
theorem test_step_start_up_completes :
    (match exec (.startUpCheckComplete []) State.reset with
      | .next t => !t.ring.bypass && !t.core.ts.valid && !t.core.ts.checking
      | _ => false) = true := by decide +kernel

/-! ### The hypotheses of the statements are met -/

theorem witness_taken : TakenNow (ask []) started ∧ TakenNow (ask [0]) (withIncident .pending id) := by decide +kernel
theorem witness_ends_freely : EndsFreely (origin (ask []) 0x03) started := by decide +kernel
theorem witness_empty_queue : started.pending = [] := rfl
theorem witness_window_left : windowOf 3 (withCore fun c => setWindow 3 (.opened 1) c).core = .opened 1 := by decide +kernel
theorem witness_start_up_begins :
    State.reset.lines.resetLow = false
      ∧ (∃ s : State, s.lines.resetLow = true ∧ s.lines.supplies = false)
      ∧ (∃ s : State, s.lines.supplies = true ∧ s.lines.resetLow = true ∧ s.lines.kind = .line)
      ∧ (∃ s : State, s.lines.supplies = true ∧ s.lines.resetLow = true ∧ s.lines.kind = .power) :=
  ⟨rfl, ⟨{ State.reset with lines := ⟨false, true, .line⟩ }, rfl, rfl⟩,
    ⟨{ State.reset with lines := ⟨true, true, .line⟩ }, rfl, rfl, rfl⟩,
    ⟨{ State.reset with lines := ⟨true, true, .power⟩ }, rfl, rfl, rfl⟩⟩
theorem witness_held_in_reset :
    ResetHoldsEverything { State.reset with core := cold 0, lines := ⟨true, true, .line⟩ } := by
  refine ⟨fun _ => ⟨rfl, rfl⟩, fun _ => ⟨rfl, rfl, rfl⟩⟩
theorem witness_resets : started.lines.supplies = true
    ∧ { started with lines := ⟨false, false, .power⟩ }.lines.supplies = false := ⟨rfl, rfl⟩
theorem witness_cut_writes :
    ({ started with handler := .working (.setting 0 1 (origin (ask []) 3)) }.handler
        = .working (.setting 0 1 (origin (ask []) 3)))
      ∧ ({ started with handler := .working (.hold 1023 true (origin (ask []) 0x30)) }.handler
        = .working (.hold 1023 true (origin (ask []) 0x30)))
      ∧ ({ started with handler := .working (.hold 0 false (origin (ask []) 0x30)) }.handler
        = .working (.hold 0 false (origin (ask []) 0x30))) := ⟨rfl, rfl, rfl⟩
theorem witness_start_up_check : State.reset.core.ts.checking = true ∧ State.reset.core.ts.valid = false
    ∧ State.reset.core.ic.mode = .halt ∧ State.reset.core.ts.compile ≠ .compiling true
    ∧ State.reset.nv.generation = 0 ∧ started.core.ts.checking = false := by decide +kernel

/-- The part with the answer to SOFT RESET in transmission at a port. -/
def resetting (p : Port) : State :=
  { started with
    handler := .resetPending
    ring := { (started.ring.setPort p ⟨true, .sending [] .answer, []⟩) with
      answers := [⟨⟨p, 1, 0x3F, 7⟩, .done, [], true, true⟩] } }

theorem witness_soft_reset_takes_place : (resetting .east).handler = .resetPending ∧ started.handler ≠ .resetPending
    ∧ (resetting .east).ring.answers.find? (fun a => a.softReset && a.sending)
        = some ⟨⟨.east, 1, 0x3F, 7⟩, .done, [], true, true⟩
    ∧ (resetting .west).ring.answers.find? (fun a => a.softReset && a.sending)
        = some ⟨⟨.west, 1, 0x3F, 7⟩, .done, [], true, true⟩
    ∧ (resetting .east).ring.east.output = .sending [] .answer
    ∧ (resetting .west).ring.west.output = .sending [] .answer
    ∧ started.ring.answers.find? (fun a => a.softReset && a.sending) = none := by decide +kernel
theorem witness_links : started.ring.east.up = true ∧ started.ring.west.up = true ∧ started.ring.bypass = false
    ∧ (∀ a ∈ started.ring.answers, a.origin.port = .east → a.sending = false)
    ∧ (started.ring.setPort .east .reset).east.up = false ∧ (started.ring.setPort .west .reset).west.up = false
    ∧ State.reset.ring.bypass = true := by decide +kernel
theorem witness_read_back : ([] : List Byte).length ≤ 240 ∧ (List.replicate 240 (0 : Byte)).length ≤ 240
    ∧ stationOk 250 = true ∧ stationOk 1 = true := by decide +kernel

/-- The part with both East buffers holding requests. -/
def fullEast : State :=
  { started with
    handler := .working (.copyActive (origin (ask []) 0x13))
    ring := { started.ring with buffers := [⟨.east, .request 1 []⟩, ⟨.east, .request 1 []⟩] } }

theorem witness_arrivals_lost : fullEast.ring.isUp .east = true ∧ 2 ≤ fullEast.ring.occupied .east
    ∧ fullEast.handler ≠ .ready ∧ ownSource fullEast 1 = false ∧ isManager fullEast.nv.settings 1 = true := by decide +kernel
theorem witness_arrivals_checked : started.ring.occupied .east < 2 ∧ frameOk [1, 2, 3] = false
    ∧ frameOk (frame 250 1 0x31 [2, 7]) = true ∧ frameOk (frame 250 2 0x31 [2, 7]) = true
    ∧ u8 (frame 250 1 0x31 [2, 7]) 0 = started.nv.settings.partAddress
    ∧ u8 (frame 250 1 0x31 [2, 7]) 1 = started.nv.settings.primary ∧ u8 (frame 250 1 0x31 [2, 7]) 2 = 0x31
    ∧ u8 (frame 250 2 0x31 [2, 7]) 1 ≠ started.nv.settings.primary ∧ started.nv.settings.standby = 0
    ∧ u8 (frame 3 250 0x11 []) 1 = started.nv.settings.partAddress ∧ started.ring.retired = none := by decide +kernel
theorem witness_forwarded : frameOk (frame 255 4 0x55 [1]) = true ∧ u8 (frame 255 4 0x55 [1]) 1 ≠ 250
    ∧ u8 (frame 255 4 0x55 [1]) 0 ≠ 250 ∧ u8 (frame 255 4 0x55 [1]) 2 ≠ 0x11 ∧ u8 (frame 255 4 0x55 [1]) 2 ≠ 0x21
    ∧ started.ring.isUp Port.east.other = true
    ∧ ({ started.ring with west := .reset } : Ring).isUp Port.east.other = false := by decide +kernel
theorem witness_sample : frameOk (frame 255 12 0x11 [0, 0, 0, 0, 1, 7, 1, 0, 0]) = true
    ∧ (sampleOf (frameBody (frame 255 12 0x11 [0, 0, 0, 0, 1, 7, 1, 0, 0]))).isSome = true
    ∧ sampleOf (frameBody (frame 255 12 0x11 [0, 0, 0, 0, 1, 8, 0, 0, 0])) = none
    ∧ u8 (frame 255 12 0x11 [0, 0, 0, 0, 1, 7, 1, 0, 0]) 2 = 0x11
    ∧ byteAt (frame 255 12 0x11 [0, 0, 0, 0, 1, 7, 1, 0, 0]) 3 = 40 := by decide +kernel

/-- A valve record: segments 5 and EXTERNAL, station 20, channel 15. -/
def valve9 : Record := ⟨1, 0, 5, 0xFF, 0xFF, 20, 15, 0, 40, 0, 0, 0⟩

/-- The part started on a bank with valve 9 at station 20. -/
def withValve : State :=
  { withSegment with nv := { withSegment.nv with bankA := ⟨⟨[(5, segment5)], [(9, valve9)], [], []⟩, [], true⟩ } }

theorem witness_position : frameOk (frame 255 20 0x21 [15, 1, 0, 3]) = true
    ∧ positionOf (frameBody (frame 255 20 0x21 [15, 1, 0, 3])) = some ⟨15, .closed, .idle, 3⟩
    ∧ positionOf (frameBody (frame 255 20 0x21 [16, 1, 0, 3])) = none
    ∧ withValve.core.ts.valid = true ∧ withValve.nv.active.tables.actuator 20 15 = some 9
    ∧ withValve.nv.active.wrongAt ⟨.stationIndex, 20⟩ = none ∧ poisonedAt withValve.core ⟨.stationIndex, 20⟩ = false
    ∧ motionOf 9 withValve.core = none := by decide +kernel

/-- Valve 9's part with one or two wrong bits in station 20's index record. -/
def wrongStation (w : Wrong) : State :=
  { withValve with nv := { withValve.nv with bankA := { withValve.nv.bankA with
      damage := [(Place.key ⟨.stationIndex, 20⟩, w)] } } }

theorem witness_wrong_station : (wrongStation .one).nv.active.wrongAt ⟨.stationIndex, 20⟩ = some .one
    ∧ (wrongStation .two).nv.active.wrongAt ⟨.stationIndex, 20⟩ = some .two
    ∧ markAt (wrongStation .one).core ⟨.stationIndex, 20⟩ = none
    ∧ poisonedAt (setMark ⟨.stationIndex, 20⟩ .poisoned withValve.core) ⟨.stationIndex, 20⟩ = true := by decide +kernel
theorem test_station_with_wrong_bits :
    (match exec (.frameArrival .east (frame 255 20 0x21 [15, 1, 0, 3])) (wrongStation .one),
        exec (.frameArrival .east (frame 255 20 0x21 [15, 1, 0, 3])) (wrongStation .two) with
      | .next t, .next u => decide ((valveOf 9 t.core).position = .closed ∧ (valveOf 9 u.core).position = .unknown
          ∧ markAt t.core ⟨.stationIndex, 20⟩ = some .corrected ∧ poisonedAt u.core ⟨.stationIndex, 20⟩ = true)
      | _, _ => false) = true := by decide +kernel
theorem witness_reports :
    motionOf 9 { withValve.core with ds := { withValve.core.ds with slots := [(0, motion .issued false)] } }
        = some (0, motion .issued false)
      ∧ motionOf 9 withValve.core = none ∧ (motion .issued false).token = 1
      ∧ withValve.ring.isUp .east = true ∧ withValve.ring.occupied .east < 2
      ∧ poisonedAt withValve.core ⟨.stationIndex, 20⟩ = false ∧ withValve.nv.active.wrongAt ⟨.stationIndex, 20⟩ = none
      ∧ positionOf (frameBody (frame 255 20 0x21 [15, 1, 1, 1])) = some ⟨15, .closed, .moving, 1⟩
      ∧ positionOf (frameBody (frame 255 20 0x21 [15, 2, 2, 3])) = some ⟨15, .mid, .jammed, 3⟩ := by decide +kernel

/-- An answer in transmission at East, and one in hand. -/
def sentAnswer : Answer := ⟨⟨.east, 1, 0x01, 7⟩, .done, [], false, true⟩

theorem witness_transmissions :
    (∃ s : State, (s.ring.port .east).output = .sending [] .answer ∧ s.ring.answers = [] ++ sentAnswer :: []
        ∧ (∀ a ∈ s.ring.answers, a.softReset = false) ∧ s.handler = .waiting { sentAnswer with sending := false }
        ∧ s.ring.isUp .east = true ∧ takeHeld s.ring.buffers = none)
      ∧ (∃ s : State, (s.ring.port .east).output = .sending [] .forwarded
        ∧ s.ring.buffers = [] ++ (⟨Port.east.other, .forward [] true⟩ : Buffered) :: [])
      ∧ (∃ s : State, (s.ring.port .west).output = .sending [] .drive)
      ∧ ∃ s : State, (s.ring.port .west).output = .sending [] .notice :=
  ⟨⟨{ started with handler := .waiting { sentAnswer with sending := false }
                   ring := { started.ring with east := ⟨true, .sending [] .answer, []⟩, answers := [sentAnswer] } },
      rfl, rfl, by decide +kernel, rfl, rfl, rfl⟩,
    ⟨{ started with ring := { started.ring with east := ⟨true, .sending [] .forwarded, []⟩
                                                buffers := [⟨.west, .forward [] true⟩] } }, rfl, rfl⟩,
    ⟨{ started with ring := { started.ring with west := ⟨true, .sending [] .drive, []⟩ } }, rfl⟩,
    ⟨{ started with ring := { started.ring with west := ⟨true, .sending [] .notice, []⟩ } }, rfl⟩⟩

/-- The part with one of everything an output can take. -/
def everything : State :=
  { started with
    core := { started.core with log := ⟨[.deviceReset 1], 0, 0, 1⟩ }
    ring := { started.ring with
      east := ⟨true, .idle, [⟨⟨0, 20, 15, .close, 40, 1⟩, none, false⟩]⟩
      buffers := [⟨.west, .forward [] false⟩], answers := [{ sentAnswer with sending := false }] } }

theorem witness_outputs : everything.ring.isUp .east = true ∧ (everything.ring.port .east).output = .idle
    ∧ (everything.ring.port .east).drives = ⟨⟨0, 20, 15, .close, 40, 1⟩, none, false⟩ :: []
    ∧ everything.ring.buffers = [] ++ ⟨Port.east.other, .forward [] false⟩ :: []
    ∧ everything.ring.answers = [] ++ { sentAnswer with sending := false } :: []
    ∧ everything.ring.head.taken .east = false ∧ everything.core.log.notices = [.deviceReset 1] := by decide +kernel
theorem witness_nothing_waits (p : Port) : NoneAwaits p [] ∧ NoneWaits p [] ∧ NoneAwaits .east [⟨.east, .forward [] false⟩]
    ∧ NoneWaits .east [sentAnswer] :=
  ⟨fun _ h => absurd h List.not_mem_nil, fun _ h => absurd h List.not_mem_nil,
    fun _ h _ e => (nomatch (List.mem_singleton.1 h).symm.trans e), fun _ h _ => congrArg Answer.sending (List.mem_singleton.1 h)⟩
theorem witness_taken_under : TakenUnder (some ⟨20, 250, 3⟩) 20 everything ⟨20, 250, 3⟩ everything.ring.ownSequence
    ∧ TakenUnder none 20 everything (completed 20 everything) (everything.ring.ownSequence + 1) :=
  ⟨.inl ⟨rfl, rfl⟩, .inr ⟨rfl, rfl, rfl⟩⟩
theorem test_outputs_in_preference :
    ((arbitrate .east everything).ring.east.drives.map fun x => (x.sending, x.header))
      = [(true, some ⟨20, 250, 0⟩)]
      ∧ (settle everything).ring.west.output = .sending (mkFrame ⟨1, 250, 1⟩ 0x33 (Notice.deviceReset 1).body) .notice := by
  decide +kernel
theorem witness_settling :
    ({ everything with ring := { everything.ring with west := .reset } }).core.log.notices = .deviceReset 1 :: []
      ∧ ({ everything.ring with west := .reset } : Ring).isUp .west = false
      ∧ ({ everything.ring with west := .reset } : Ring).isUp Port.west.other = true
      ∧ (⟨true, false, none⟩ : Head).taken Port.west.other = true
      ∧ (⟨false, false, none⟩ : Head).taken Port.west.other = false := by decide +kernel
theorem test_outbox_reaches_the_ports :
    ((settle (withCore (handDrive ⟨0, 20, 15, .close, 40, 1⟩))).ring.east.drives.map fun x => x.drive.slot) = [0]
      ∧ (settle (withCore (clearSlot 0))).core.ds.outbox = [] := by decide +kernel
theorem witness_settled_output : (settle started).ring.isUp .east = true
    ∧ ((settle started).ring.port .east).output = .idle := by decide +kernel
theorem witness_answer_queue_full :
    4 ≤ ({ started.ring with answers := List.replicate 4 sentAnswer } : Ring).answers.length := by decide +kernel
theorem witness_unknown_kind : Taken .east 1 started ∧ requestKinds.contains (0x06 : Byte).toNat = false := by decide +kernel
theorem witness_status : (ask []).args = [] ∧ (ask [0]).args ≠ [] ∧ started.core.ic.table.length ≤ 16
    ∧ started.core.ds.slots.length ≤ 8 ∧ started.core.log.notices.length ≤ 32
    ∧ (∀ e ∈ started.core.ic.table, e.2.number ≤ 255) := by decide +kernel
theorem witness_status_entry :
    (withIncident .pending id).core.ic.table.at? 0 ≠ none ∧ (withIncident .pending id).core.ic.table.at? 15 = none := by decide +kernel
theorem witness_set_setting : (ask [9, 0, 0]).args.length = 3 ∧ u8 (ask [9, 0, 0]).args 0 = 9
    ∧ 9 < u8 (ask [10, 0, 0]).args 0
    ∧ clamped 8 (u16 (ask [8, 0, 7]).args 1) = 1 ∧ clamped 0 (u16 (ask [0, 0, 0]).args 1) = 1
    ∧ clamped 4 (u16 (ask [4, 0xFF, 0xFF]).args 1) = 3600 := by decide +kernel
theorem witness_set_setting_clash : AddressClash Settings.factory 0 1 ∧ ¬AddressClash Settings.factory 0 249
    ∧ AddressClash Settings.factory 1 250 ∧ AddressClash Settings.factory 2 250 ∧ ¬AddressClash Settings.factory 2 0
    ∧ Settings.factory.list.getD 3 0 = 10 ∧ Settings.factory.list.getD 3 0 ≠ 15 := by
  unfold AddressClash
  decide +kernel
theorem witness_writes_end :
    (∀ n v o, started.handler ≠ .working (.setting n v o)) ∧ (∀ v b o, started.handler ≠ .working (.hold v b o))
      ∧ ∀ o, started.handler ≠ .working (.copyActive o) :=
  ⟨fun _ _ _ h => Handler.noConfusion h, fun _ _ _ h => Handler.noConfusion h, fun _ h => Handler.noConfusion h⟩
theorem witness_ends_at_a_down_port :
    ({ started with ring := started.ring.setPort .east .reset }).ring.isUp (origin (ask []) 3).port = false
      ∧ ({ started with ring := started.ring.setPort .east .reset }).ring.isUp (origin (ask []) 3).port.other = true
      ∧ ({ started with ring := bypassed }).ring.isUp (origin (ask []) 3).port.other = false
      ∧ bypassed.answers.length < 4 := by decide +kernel
theorem test_write_ends_at_the_other_port :
    (match exec .settingWriteDone { started with
        handler := .working (.setting 3 15 (origin (ask []) 3)), ring := started.ring.setPort .east .reset } with
      | .next t => (t.ring.west.output != .idle) && decide (t.nv.settings.locateWindow = 15)
      | _ => false) = true := by decide +kernel
theorem witness_set_mode : u8 (ask [2]).args 0 = Mode.advise.code ∧ 2 < u8 (ask [3]).args 0
    ∧ Mode.halt = started.core.ic.mode ∧ started.core.ts.valid = false ∧ withSegment.core.ts.valid = true := by decide +kernel
theorem witness_zone_mask : (ask [1, 0x80, 0, 0, 1]).args.length = 5 ∧ u8 (ask [1, 0x80, 0, 0, 1]).args 0 ≤ 1
    ∧ 1 < u8 (ask [2, 0, 0, 0, 0]).args 0 := by decide +kernel
theorem witness_load_window : TableName.association.code = u8 (ask [3, 0, 0, 7, 0xFF]).args 0
    ∧ u16 (ask [3, 0, 0, 7, 0xFF]).args 3 < 2048 ∧ 2048 ≤ u16 (ask [3, 0, 0, 8, 0]).args 3
    ∧ u16 (ask [0, 0, 1, 0, 0]).args 3 < u16 (ask [0, 0, 1, 0, 0]).args 1 ∧ started.core.ts.compile = .idle := by decide +kernel

/-- An open window on the last two entries of the Segment Table. -/
def window : LoadWindow := ⟨.segment, 510, 511, 510⟩

theorem witness_load : (ask (1 :: segment5.bytes)).args.length = 1 + 12 * u8 (ask (1 :: segment5.bytes)).args 0
    ∧ (withCore fun c => { c with ts := { c.ts with window := some window } }).core.ts.window = some window
    ∧ (ask (segment5.bytes ++ [8, 0])).args.length = 14 ∧ u16 (ask (segment5.bytes ++ [8, 0])).args 12 = 2048
    ∧ Record.ofBytes ((ask (segment5.bytes ++ [8, 0])).args.take 12) = some segment5
    ∧ started.core.ts.window = none ∧ min 2048 (window.last + 1 - window.pointer) = 2 := by decide +kernel

/-- The part with a compile under way on a shadow bank. -/
def compiling (t : Tables) : State :=
  withCore fun c => { c with ts := { c.ts with compile := .compiling false, shadow := t } }

theorem witness_compile_error : compileCheck (compiling .empty).core.ts.shadow = some (.noSource, none)
    ∧ compileCheck (compiling ⟨[(511, { segment5 with b1 := 40 })], [], [], []⟩).core.ts.shadow
        = some (.badField, some (.segment, 511))
    ∧ (compiling .empty).core.ts.compile = .compiling false := by decide +kernel
theorem witness_compile_valve_errors :
    compileCheck ⟨[(5, segment5)], [(9, valve9), (311, valve9)], [], []⟩ = some (.duplicate, some (.valve, 311)) := by decide +kernel
theorem witness_compile_sensor_error : compileCheck ⟨[(5, segment5)], [], [(255, segment5)], []⟩
      = some (.badField, some (.sensor, 255)) := by decide +kernel
theorem witness_compile_association_error :
    compileCheck ⟨[(5, segment5)], [], [], [(2047, { segment5 with b4 := 1 })]⟩
      = some (.badReference, some (.association, 2047)) := by decide +kernel
theorem test_record_fields : RecordReads valve9.bytes valve9 ∧ RecordReads segment5.bytes segment5
    ∧ recordsOf (valve9.bytes ++ segment5.bytes ++ [1]) = [valve9, segment5] := by
  unfold RecordReads
  decide +kernel
theorem witness_compile_written : compileCheck ⟨[(5, segment5)], [(9, valve9)], [], []⟩ = none
    ∧ (compiling ⟨[(5, segment5)], [(9, valve9)], [], []⟩).core.ts.checking = false
    ∧ (compiling ⟨[(5, segment5)], [(9, valve9)], [], []⟩).core.ip.engine = .idle := by decide +kernel
theorem witness_swap_conflict :
    (firstConflict Nv.factory ⟨[(5, segment5)], [], [], []⟩ (byOrder (live started.core)) started.core).1 = none
      ∧ (firstConflict Nv.factory ⟨[], [], [], []⟩ (byOrder (live (withIncident .pending id).core))
          (withIncident .pending id).core).1 = some (1, .segment, 5) := by decide +kernel
theorem witness_read_entry : u16 (ask [2, 0, 1, 0xFF, 1]).args 2 + u8 (ask [2, 0, 1, 0xFF, 1]).args 4 = TableName.segment.size
    ∧ TableName.segment.code = u8 (ask [2, 0, 1, 0xFF, 1]).args 1
    ∧ TableName.segment.size < u16 (ask [0, 0, 1, 0xFF, 2]).args 2 + u8 (ask [0, 0, 1, 0xFF, 2]).args 4
    ∧ 16 < u8 (ask [0, 0, 0, 0, 17]).args 4 ∧ started.nv.inactive.valid = false := by decide +kernel

/-- Segment 5's part in mode WATCH. -/
def watching : State := { withSegment with core := { withSegment.core with ic := { withSegment.core.ic with mode := .watch } } }

theorem witness_raise : TakenNow (ask [0, 5]) watching ∧ u16 (ask [0, 5]).args 0 ≤ 511 ∧ watching.core.ic.mode ≠ .halt
    ∧ 511 < u16 (ask [2, 0]).args 0 ∧ seen watching.nv .segment 5 (closed watching.core) = .value segment5
    ∧ seen watching.nv .segment 511 (closed watching.core) = .absent
    ∧ indexPoisoned .segmentIndex 5 (closed watching.core) = false ∧ covered 5 (closed watching.core) = false
    ∧ freeEntries (closed watching.core) ≠ [] ∧ covered 5 (withIncident .pending id).core = true := by decide +kernel
theorem witness_table_full : freeEntries (withCore fun c => { c with ic := { c.ic with
    table := (List.range 16).map fun e => (e, newIncident (e + 1) e (e + 1) ⟨0, 0, true, false, 1⟩ .manual 0) } }).core
      = [] := by decide +kernel
theorem witness_incident_requests : incident? 1 (withIncident .awaitingConsent id).core ≠ none
    ∧ incident? 0 (withIncident .awaitingConsent id).core = none
    ∧ incident? 255 (withIncident .awaitingConsent id).core = none
    ∧ TakenNow (ask [1]) (withIncident .awaitingConsent id)
    ∧ u8 (ask [1]).args 0 = 1 := by decide +kernel
theorem witness_consent_forms :
    (incident? 1 (withIncident .awaitingConsent fun i => { i with owed := true, key := 4 }).core).map (fun i => (i.owed, i.key))
        = some (true, 4)
      ∧ (incident? 1 (withIncident .awaitingConsent id).core).map (fun i => (i.owed, i.key)) = some (false, 0) := by decide +kernel
theorem witness_suspend_forms :
    (∃ e ∈ (withMotion .moving false).core.ds.slots, e.2.owner = 1)
      ∧ ∀ e ∈ (withIncident .isolating id).core.ds.slots, e.2.owner ≠ 1 := by decide +kernel
theorem witness_release_forms :
    (byOrder ((live (withIncident .isolated id).core).filter fun x => x.state = .isolated)).head?.isSome = true
      ∧ ∀ i ∈ live (withIncident .stalled id).core, i.state ≠ .isolated := by decide +kernel
theorem witness_expand_forms : TakenNow (ask [1, 3, 0xFF]) (withIncident .isolated id)
    ∧ u16 (ask [1, 3, 0xFF]).args 1 = 1023 ∧ 1023 < u16 (ask [1, 4, 0]).args 1
    ∧ (∃ e ∈ ([⟨1023, .boundary, .done⟩] : List ClosureEntry), e.valve = 1023 ∧ e.role = .boundary)
    ∧ 8 ≤ ([1, 2, 3, 4, 5, 6, 7, 8] : List Nat).length := by decide +kernel
theorem witness_read_incident : u8 (ask [1, 3, 63]).args 2 ≤ 63 ∧ 63 < u8 (ask [1, 1, 64]).args 2
    ∧ 3 < u8 (ask [1, 4, 0]).args 1 ∧ u8 (ask [1, 2, 0]).args 1 = 2 ∧ u8 (ask [1, 0, 0]).args 1 = 0 := by decide +kernel
theorem witness_set_hold : u16 (ask [3, 0xFF, 1, 1]).args 0 = 1023 ∧ u8 (ask [3, 0xFF, 1, 1]).args 2 = 1
    ∧ 1023 < u16 (ask [4, 0, 0, 0]).args 0 ∧ u8 (ask [0, 0, 0, 1]).args 2 = 0 ∧ started.core.ts.lock = false
    ∧ started.nv.persistent.has 0 ≠ true ∧ started.nv.persistent.has 0 = false
    ∧ (withCore fun c => { c with ts := { c.ts with lock := true } }).core.ts.lock = true := by decide +kernel
theorem witness_valve_requests :
    (valveOf 1023 (withCore (setValve 1023 { ValveStatus.reset with status := .failed })).core).status = .failed
      ∧ (valveOf 1023 started.core).status ≠ .failed ∧ motionOf 9 (withMotion .issued true).core = some (0, motion .issued true)
      ∧ motionOf 9 started.core = none ∧ u16 (ask [3, 0xFF]).args 0 = 1023 := by decide +kernel
theorem witness_read_sensor : u16 (ask [0, 0xFF]).args 0 ≤ 255 ∧ 255 < u16 (ask [1, 0]).args 0
    ∧ quiet.baseline ≤ 1048560 ∧ quiet.deviation ≤ 4095 ∧ quiet.home.getD 65535 ≤ 65535 := by decide +kernel

/-- The context of the example in a state, its staleness timer run out. -/
def silent (st : ChannelState) : Channel :=
  { quiet with state := st, timer := some 0, incident := if st = .attributed then some 1 else none }

theorem witness_staleness :
    (∀ st ∈ [ChannelState.quiet, .suspect, .tripped, .attributed],
      channelOf 255 (withCore (setChannel 255 (silent st))).core = silent st)
      ∧ (silent .quiet).timer = some 0 ∧ quiet.timer ≠ some 0 ∧ Channel.reset.timer ≠ some 0
      ∧ (silent .quiet).state ≠ .inhibited ∧ (silent .quiet).state ≠ .stale
      ∧ (silent .attributed).incident = some 1 := by decide +kernel
theorem test_reading_restarts_the_timer :
    (after [4518]).timer = some 30000
      ∧ canStale (evaluated p17 4518 0 (silent .quiet)) = false ∧ canStale (silent .quiet) = true := by decide +kernel

/-- Segment 5's part with its score at its threshold and zone 3's window OPEN, in a mode. -/
def opened (m : Mode) : Core :=
  setScore 5 1 (setWindow 3 (.opened 0) { withSegment.core with ic := { withSegment.core.ic with mode := m } })

theorem witness_window_expiry : windowOf 3 (opened .watch) = .opened 0
    ∧ windowOf 3 (setWindow 3 (.opened 1) (opened .watch)) ≠ .opened 0 ∧ windowOf 31 (opened .watch) = .closed
    ∧ candidates withSegment.nv 3 (opened .watch) = [5] ∧ candidates withSegment.nv 31 (opened .halt) = []
    ∧ seen withSegment.nv .segment 5 (opened .halt) = .value segment5 ∧ freeEntries (opened .watch) ≠ [] := by decide +kernel
theorem witness_window_bank : TablesCanonical withSegment.nv.active.tables := by
  unfold TablesCanonical
  decide +kernel
theorem witness_confirmation :
    (incident? 1 (withIncident .confirming fun i => { i with timer := some 0 }).core).map (fun i => (i.state, i.timer))
      = some (.confirming, some 0)
      ∧ (incident? 1 (withIncident .confirming fun i => { i with timer := some 1 }).core).map (fun i => i.timer)
        = some (some 1) := by decide +kernel
theorem witness_plan : started.core.ip.engine = .idle
    ∧ (withCore fun c => { c with ip := ⟨.running 1 .first (snapshotOf Nv.factory
        (newIncident 1 5 1 ⟨0, 0, true, false, 1⟩ .manual 0) c), []⟩ }).core.ip.engine ≠ .idle
    ∧ (live (withIncident .planning fun i => { i with releaseRequested := true }).core).find? (fun x => x.order == 1) ≠ none
    ∧ (∀ i ∈ live started.core, i.order ≠ 1) := by decide +kernel
theorem witness_motion_timers :
    (∀ again ∈ [false, true], slotOf 0 (withCore (setSlot 0 { motion .issued again with response := some 0 })).core
        = some { motion .issued again with response := some 0 })
    ∧ (slotOf 0 (withCore (setSlot 0 { motion .moving false with strokeTimer := some 0 })).core).map (fun m => m.strokeTimer)
        = some (some 0)
    ∧ (motion .issued false).response ≠ some 0 ∧ (motion .moving false).strokeTimer ≠ some 0
    ∧ slotOf 7 (withMotion .issued true).core = none ∧ held Nv.factory 9 (withMotion .issued false).core = false
    ∧ seen withValve.nv .valve 9 withValve.core = .value valve9 := by decide +kernel
theorem witness_reading : (((after [4518]).baseline : Nat) : Int) = 72344 + (4518 * 16 - 72344 : Int).tdiv (2 ^ 3)
    ∧ quiet.seeded = true ∧ quiet.state ≠ .stale ∧ Channel.reset.seeded = false := by decide +kernel

/-- A bank with one wrong bit in segment 5 and two in valve 9. -/
def damaged : Nv :=
  { withValve.nv with bankA := { withValve.nv.bankA with
    damage := [(Place.key ⟨.segment, 5⟩, .one), (Place.key ⟨.valve, 9⟩, .two)] } }

theorem witness_reads : damaged.active.wrongAt ⟨.segment, 5⟩ = some .one ∧ damaged.active.wrongAt ⟨.valve, 9⟩ = some .two
    ∧ damaged.active.wrongAt ⟨.sensor, 0⟩ = none ∧ markAt withValve.core ⟨.segment, 5⟩ = none
    ∧ markAt (setMark ⟨.segment, 5⟩ .corrected withValve.core) ⟨.segment, 5⟩ = some .corrected
    ∧ markAt (setMark ⟨.valve, 9⟩ .poisoned withValve.core) ⟨.valve, 9⟩ = some .poisoned := by decide +kernel
theorem test_table_error_code : ((touchPlace damaged ⟨.valve, 9⟩ withValve.core).log.notices.map fun n => (n.valve, n.code))
    = [(9, 18)] := by decide +kernel
theorem witness_grants : held withValve.nv 9 withValve.core = false
    ∧ held { withValve.nv with persistent := [(9, ())] } 9 withValve.core = true
    ∧ (valveOf 9 withValve.core).status ≠ .failed ∧ (valveOf 9 withValve.core).claims = 0
    ∧ seen withValve.nv .valve 8 withValve.core = .absent ∧ ValveStatus.reset.token ≤ 255 := by decide +kernel
theorem witness_state_changes : started.core.log.notices.length < 32
    ∧ 32 ≤ (List.replicate 32 (Notice.deviceReset 1)).length
    ∧ (incident? 1 (withIncident .isolating fun i => { i with attributed := [4] }).core).map (fun i => (i.state, i.attributed))
        = some (.isolating, [4])
    ∧ (1 : Nat) ∉ (withIncident .isolating id).core.ip.queue := by decide +kernel
theorem witness_invariants : QueuesBounded started ∧ TablesConsistent started ∧ ArraysCanonical started := by
  refine ⟨⟨by decide +kernel, by decide +kernel, fun p => by cases p <;> decide +kernel, by decide +kernel,
    fun p k => by cases p <;> exact Nat.zero_le 1, by decide +kernel, by decide +kernel, by decide +kernel⟩, ?_, ?_⟩
  · unfold TablesConsistent
    decide +kernel
  · refine ⟨?_, ?_, ?_, ?_, ?_, fun _ _ _ h => (Engine.noConfusion h), ?_⟩ <;> try unfold TablesCanonical
    all_goals decide +kernel
theorem witness_steps : step { started with pending := [.powerOn] } ≠ step started := by
  intro h
  simp [step, started, exec, execPowerOn, powerOn, startIfReady, coldState, beginStartUp, tick, Core.elapse, State.reset,
    bypassed, Ring.reset] at h

/-! ### The further cases of the statements -/

/-- A sensor record: station 12, channel 7, home segment 5, and an association of sensor 2 with segment 5, weight 4. -/
def sensor2 : Record := ⟨1, 12, 7, 0, 0, 5, 3, 0, 120, 3, 0, 30⟩
def association0 : Record := ⟨1, 2, 0, 5, 4, 0, 0, 0, 0, 0, 0, 0⟩

/-- Valve 9's part with sensor 2 and its association besides, its channel in a state. -/
def withSensor (st : ChannelState) (n : Option Nat) : State :=
  { withValve with
    nv := { withValve.nv with
      bankA := ⟨⟨[(5, segment5)], [(9, valve9)], [(2, sensor2)], [(0, association0)]⟩, [], true⟩ }
    core := setChannel 2 { quiet with state := st, deviation := 2000, incident := n } withValve.core }

theorem witness_check_of_a_valid_bank :
    (∃ s : State, s.core.ts.checking = true ∧ s.core.ts.valid = false ∧ s.core.ts.map = [] ∧ s.core.ic.mode = .halt
        ∧ s.core.ts.compile = .compiling true ∧ s.core.ip.engine = .idle ∧ s.nv.generation ≠ 0 ∧ s.nv.active.valid = true)
      ∧ damaged.active.wrongAt ⟨.valve, 9⟩ = some .two ∧ damaged.active.damage.at? (Place.key ⟨.sensor, 255⟩) = none
      ∧ (withSensor .quiet none).nv.active.tables.sensors.at? 2 = some sensor2 := by
  refine ⟨⟨{ State.reset with
    nv := withValve.nv
    core := { State.reset.core with ts := { State.reset.core.ts with compile := .compiling true } } },
    rfl, rfl, rfl, rfl, rfl, rfl, ?_, rfl⟩, ?_⟩ <;> decide +kernel
theorem witness_answers_lost_with_a_link :
    LostAt .east (resetting .east).ring ⟨⟨.east, 1, 0x3F, 7⟩, .done, [], true, true⟩
      ∧ LostAt .east { bypassed with east := ⟨true, .idle, []⟩, answers := [{ sentAnswer with sending := false }] }
          { sentAnswer with sending := false }
      ∧ (downed .east { bypassed with east := ⟨true, .idle, []⟩, answers := [sentAnswer] }).answers.length < 4
      ∧ ∀ a, ¬LostAt .east started.ring a :=
  ⟨⟨by decide +kernel, rfl, .inl rfl⟩, ⟨by decide +kernel, rfl, .inr rfl⟩, by decide +kernel,
    fun _ h => by simpa [started, bypassed] using h.1⟩
theorem witness_snooped_kinds : u8 (frame 255 12 0x11 [0, 0, 0, 0, 1, 7, 1, 0, 0]) 2 = 0x11
    ∧ u8 (frame 255 20 0x21 [15, 1, 0, 3]) 2 = 0x21 := by decide +kernel
theorem witness_readings_taken :
    (withSensor .quiet none).nv.active.tables.sensorAt 12 7 = some 2
      ∧ (withSensor .quiet none).nv.active.tables.sensorAt 250 7 = none
      ∧ seen (withSensor .quiet none).nv .sensor 2 (withSensor .quiet none).core = .value sensor2
      ∧ indexPoisoned .sensorIndex 2 (withSensor .quiet none).core = false
      ∧ (channelOf 2 (withSensor .inhibited none).core).state = .inhibited
      ∧ (channelOf 2 (withSensor .tripped none).core).state = .tripped
      ∧ (channelOf 2 (withSensor .attributed (some 1)).core).incident = some 1
      ∧ (evaluated { sensor2.sensor with persistence := 1 } 4522 0
          (channelOf 2 (withSensor .attributed (some 1)).core)).state = .quiet := by decide +kernel
theorem witness_ends_of_answers :
    (∃ a ∈ (resetting .east).ring.answers, a.origin.port = .east ∧ a.sending = true ∧ a.softReset = true)
      ∧ (∀ w, (resetting .east).handler ≠ .waiting w) ∧ (resetting .west).ring.west.output = .sending [] .answer :=
  ⟨⟨_, List.mem_singleton.2 rfl, rfl, rfl, rfl⟩, fun _ h => Handler.noConfusion h, rfl⟩
theorem witness_kept_headers :
    (∃ x : DriveCopy, x.header = some ⟨20, 250, 3⟩) ∧ (∃ x : DriveCopy, x.header = none)
      ∧ (⟨true, false, some ⟨1, 250, 3⟩⟩ : Head).taken .east = true
      ∧ (⟨true, false, some ⟨1, 250, 3⟩⟩ : Head).taken .west = false :=
  ⟨⟨⟨⟨0, 20, 15, .close, 40, 1⟩, some ⟨20, 250, 3⟩, false⟩, rfl⟩,
    ⟨⟨⟨0, 20, 15, .close, 40, 1⟩, none, false⟩, rfl⟩, rfl, rfl⟩
theorem witness_held_requests :
    ({ fullEast with handler := .ready }.ring.buffers = [] ++ ⟨.east, .request 1 []⟩ :: [⟨.east, .request 1 []⟩])
      ∧ takeHeld [] = none ∧ started.ring.isUp sentAnswer.origin.port = true
      ∧ State.reset.ring.isUp .east = false ∧ State.reset.ring.isUp Port.east.other = false
      ∧ ({ bypassed with west := ⟨true, .idle, []⟩ } : Ring).isUp Port.east.other = true := by decide +kernel
theorem witness_waiting_at_a_write :
    4 ≤ { started with ring := { started.ring with answers := List.replicate 4 sentAnswer } }.ring.answers.length
      ∧ EndsFreely (origin (ask []) 0x30) started := by decide +kernel

/-- A shadow bank with one bad segment record, at the last index. -/
def oneBad : Tables := ⟨[(511, { segment5 with b1 := 40 })], [], [], []⟩

theorem witness_first_condition : TablesCanonical oneBad ∧ (oneBad.of .segment).at? 511 = some { segment5 with b1 := 40 }
    ∧ PassFinds oneBad 1 .segment 511 { segment5 with b1 := 40 }
    ∧ ∀ m b j q, (oneBad.of b).at? j = some q → PassFinds oneBad m b j q → NoLater 1 .segment 511 m b j := by
  refine ⟨?_, by decide +kernel, ?_, ?_⟩
  · unfold TablesCanonical
    decide +kernel
  · exact .inl (by decide +kernel)
  · intro m b j q h k
    cases b with
    | segment =>
      obtain rfl : 511 = j := by
        by_cases e : 511 = j
        · exact e
        · simp [oneBad, Tables.of, Sparse.at?, e] at h
      rcases m with _ | _ | m
      · exact k.elim
      · exact .inr ⟨rfl, .inr ⟨rfl, Nat.le_refl _⟩⟩
      · exact .inl (by omega)
    | valve => exact absurd h (fun e : none = some q => nomatch e)
    | sensor => exact absurd h (fun e : none = some q => nomatch e)
    | association => exact absurd h (fun e : none = some q => nomatch e)

/-- Valves 0 to 16, all joining segment 5 to EXTERNAL at channels and stations of their own. -/
def crowd : Sparse Record := (List.range 17).map fun k => (k, { valve9 with b5 := BitVec.ofNat 8 (k + 1) })

theorem witness_crowded :
    compileCheck ⟨[(5, segment5)], crowd, [], []⟩ = some (.boundaryOverflow, some (.segment, 5))
      ∧ compileCheck ⟨[(5, segment5)], crowd.take 16, [], []⟩ = none := by decide +kernel
theorem witness_nothing_to_find (c : Core) : NothingToFind (withSensor .quiet none).nv c := by
  intro p
  left
  unfold Bank.wrongAt
  split <;> rfl
theorem witness_conflict_forms :
    sidesInActive withValve.nv withValve.core (newIncident 1 5 1 ⟨0, 0, true, false, 1⟩ .manual 0) 9 = some (5, 65535)
      ∧ valvePasses withValve.nv.active.tables 9 (some (65535, 5)) = true
      ∧ valvePasses withValve.nv.active.tables 9 (some (5, 6)) = false
      ∧ valvePasses .empty 9 (some (5, 65535)) = false := by decide +kernel
theorem witness_rederive_forms :
    (seen (withSensor .quiet none).nv .sensor 2 (withSensor .quiet none).core = .value sensor2)
      ∧ sensor2.sensor.home = 5 ∧ covered 5 (withSensor .inhibited none).core = false
      ∧ covered 5 (withIncident .pending id).core = true
      ∧ (∃ i ∈ live (withIncident .isolating fun i => { i with closure := [⟨9, .boundary, .done⟩] }).core,
          ∃ e ∈ i.closure, e.valve = 9) := by decide +kernel
theorem witness_raising_forms : freeEntries started.core ≠ [] ∧ started.core.ic.nextNumber = 1
    ∧ raiseNumber (withIncident .pending id).core = 2
    ∧ (renumberOrders { (withIncident .pending id).core with
        ic := { (withIncident .pending id).core.ic with raises := 4294967295 } }).ic.raises = 1
    ∧ seen (withSensor .tripped none).nv .association 0 (withSensor .tripped none).core = .value association0
    ∧ association0.association.sensor = 2 ∧ (channelOf 2 (withSensor .tripped none).core).home = some 38 := by decide +kernel
theorem witness_restoring_forms : incident? 1 (withIncident .restoring id).core ≠ none
    ∧ (∃ p ∈ (withMotion .moving false).core.ds.slots, p.2.owner = 1)
    ∧ ([⟨9, .boundary, .done⟩].map fun e : ClosureEntry => e.valve).Nodup
    ∧ (reopenScan withValve.nv 1 ([], withValve.core) ⟨9, .boundary, .done⟩).1 = [9]
    ∧ reopenScan withValve.nv 1 ([], setValve 9 { ValveStatus.reset with claims := 1 } withValve.core) ⟨9, .boundary, .done⟩
        = ([], setValve 9 { ValveStatus.reset with claims := 1 } withValve.core) := by decide +kernel
theorem witness_reruns : (setWindow 31 .deferred started.core).lu.windows.wfD .closed = true
    ∧ ([31] : List Nat).Pairwise (· < ·) ∧ windowOf 31 (setWindow 31 .deferred started.core) = .deferred
    ∧ windowOf 30 (setWindow 31 .deferred started.core) = .closed := by decide +kernel
theorem witness_scores : scoreNow (withSensor .tripped none).nv 5 (withSensor .tripped none).core = 4 * 1023
    ∧ scoreNow (withSensor .quiet none).nv 5 (withSensor .quiet none).core = 0
    ∧ qualifies (withSensor .tripped none).nv 5 (rescore (withSensor .tripped none).nv 5 (withSensor .tripped none).core) = true
    ∧ (markDirty [5] (withSensor .tripped none).core).lu.dirty ≠ [] := by decide +kernel
theorem witness_first_pending :
    FirstPending (withIncident .pending id).core
      { newIncident 1 5 1 ⟨0, 0, true, false, 1⟩ .manual 0 with state := .pending } :=
  ⟨by decide +kernel, rfl, by decide +kernel, fun j hj _ _ => .inl (by
    simpa [withIncident, withCore, live] using hj)⟩

/-- The snapshot of a plan for an incident on segment 5. -/
def plan5 : Snapshot := snapshotOf Nv.factory (newIncident 1 5 1 ⟨0, 0, true, false, 1⟩ .manual 0) withValve.core

theorem test_plan_of_segment_5 : (computePlan withValve.nv plan5 withValve.core).1.toOption = some ⟨[5], [9], []⟩ := by
  decide +kernel
theorem witness_plan_forms : usable withValve.nv plan5 9 withValve.core = true
    ∧ usable withValve.nv { plan5 with persistent := [(9, ())] } 9 withValve.core = false
    ∧ (5 : Nat) ∉ ([6] : List Nat) ∧ (plan5.limit < 12 + 1) ∧ boundaryList withValve.nv 5 withValve.core = [(9, 65535)]
    ∧ (∃ d, readIndexes withValve.nv [5] withValve.core = (true, d))
    ∧ (readIndexes { withValve.nv with bankA := { withValve.nv.bankA with
        damage := [(Place.key ⟨.segmentIndex, 5⟩, .two)] } } [5] withValve.core).1 = false
    ∧ seen withValve.nv .segment 5 withValve.core = .value segment5 ∧ segment5.segment.source = true :=
  ⟨by decide +kernel, by decide +kernel, by decide +kernel, by decide +kernel, by decide +kernel, ⟨_, rfl⟩,
    by decide +kernel, by decide +kernel, by decide +kernel⟩
theorem test_slots_are_freed :
    slotOf 0 (freeSlot 0 (motion .moving false) .normal (withMotion .moving false).core) = none
      ∧ (valveOf 9 (freeSlot 0 (motion .moving false) .normal (withMotion .moving false).core)).status = .normal
      ∧ (freeSlot 0 (motion .moving false) .failed (withMotion .moving false).core).ds.outbox = [.discard 0] := by
  decide +kernel
theorem witness_lists_of_a_bank : (withSensor .tripped none).nv.active.tables.associationList 5 = [0]
    ∧ ((withSensor .tripped none).nv.active.tables.run 2).keys = [0]
    ∧ (withSensor .tripped none).nv.active.tables.associations.wf = true
    ∧ (withSensor .tripped none).nv.active.tables.associations.at? 0 = some association0
    ∧ (withSensor .tripped none).nv.active.tables.associations.at? 1 = none
    ∧ (5 : Nat) ∈ (markDirty [5, 5, 6] (withSensor .tripped none).core).lu.dirty
    ∧ (markDirty [5, 5, 6] (withSensor .tripped none).core).lu.dirty = [5, 6] := by decide +kernel
theorem test_poisoned_association_has_no_term :
    bearsOn (withSensor .tripped none).nv ⟨.sensor, 2⟩ (withSensor .tripped none).core = [5]
      ∧ bearsOn (withSensor .tripped none).nv ⟨.sensor, 2⟩
          (setMark ⟨.association, 0⟩ .poisoned (withSensor .tripped none).core) = []
      ∧ bearsOn (withSensor .tripped none).nv ⟨.association, 0⟩ (withSensor .tripped none).core = [5]
      ∧ bearsOn (withSensor .tripped none).nv ⟨.association, 1⟩ (withSensor .tripped none).core = [] := by decide +kernel
/-- Sensor 2's bank with one wrong bit in its entry and index record, and two in its association and its segment's index record. -/
def damagedRun : Nv :=
  { (withSensor .tripped none).nv with bankA := { (withSensor .tripped none).nv.bankA with
    damage := [(Place.key ⟨.sensor, 2⟩, .one), (Place.key ⟨.association, 0⟩, .two), (Place.key ⟨.segmentIndex, 5⟩, .two),
      (Place.key ⟨.sensorIndex, 2⟩, .one)] } }

theorem test_finding_a_run_reads_its_associations :
    ((touchRun damagedRun 2 (setMark ⟨.segmentIndex, 5⟩ .poisoned (withSensor .tripped none).core)).log.notices.map fun n =>
      (n.valve, n.code)) = [(2, 33), (2, 81), (0, 50)]
      ∧ (touchRun damagedRun 2 (withSensor .tripped none).core).lu.dirty = [5]
      ∧ seen damagedRun .sensor 2 (withSensor .tripped none).core = .value sensor2 := by decide +kernel
theorem witness_reopen_motion :
    motionOf 9 { withValve.core with ds := { withValve.core.ds with
      slots := [(7, { motion .issued false with action := .reopen })] } }
        = some (7, { motion .issued false with action := .reopen }) := by decide +kernel

/-- Valve 9's part with an ISOLATING incident whose one closure entry is QUEUED. -/
def granting : Core :=
  { withValve.core with ic := { withValve.core.ic with table := [(0,
    { newIncident 1 5 1 ⟨0, 0, true, false, 1⟩ .manual 0 with state := .isolating, closure := [⟨9, .boundary, .queued⟩] })] } }

theorem witness_arbiter : idleSlot granting = some 0
    ∧ (scan withValve.nv (grantOrder withValve.nv granting) granting).1 = some (1, 9, .close)
    ∧ (scan withValve.nv (grantOrder withValve.nv withValve.core) withValve.core).1 = none
    ∧ idleSlot { granting with ds := { granting.ds with
        slots := (List.range 8).map fun k => (k, motion .issued false) } } = none
    ∧ eligible withValve.nv .close [(9, .queued)] (9, .queued) granting = true
    ∧ eligible withValve.nv .close [(9, .done)] (9, .done) granting = false
    ∧ GrantedBefore true (newIncident 1 5 1 ⟨0, 0, true, false, 1⟩ .manual 0)
        (newIncident 2 6 2 ⟨0, 0, true, false, 1⟩ .manual 0) := by
  refine ⟨by decide +kernel, by decide +kernel, by decide +kernel, by decide +kernel, by decide +kernel,
    by decide +kernel, .inr ⟨rfl, .inr ⟨rfl, .inl ⟨rfl, by decide +kernel⟩⟩⟩⟩
theorem witness_rotation_at_its_top : (refreshKey 1 { granting with ic := { granting.ic with
    rotations := 4294967295 } }).ic.rotations = 1 ∧ granting.ic.rotations < 4294967295 := by decide +kernel
theorem witness_drive_copies :
    (∃ y ∈ everything.ring.east.drives, y.drive.slot = 0 ∧ y.sending = false)
      ∧ (∀ y ∈ everything.ring.east.drives, y.drive.slot = 7 → y.sending = true)
      ∧ everything.ring.east.up = true ∧ PortState.reset.up = false := by decide +kernel
theorem test_drive_leaves_as_two_copies_of_one_token :
    (match exec (.consent (ask [1])) { withValve with core := { granting with ic := { granting.ic with
        table := granting.ic.table.map fun e => (e.1, { e.2 with state := .awaitingConsent }) } } } with
      | .next t => (t.ring.east.drives.map fun x => (x.drive.token, x.header, x.sending))
            == [(1, some ⟨20, 250, 0⟩, true)]
          && t.ring.east.drives == t.ring.west.drives
      | _ => false) = true := by decide +kernel
theorem test_position_and_motion_codes :
    (∀ x ∈ [Position.opened, .closed, .mid, .unknown], positionOfCode x.code = some x)
      ∧ [0, 1, 2, 3].map motionOfCode = [some .idle, some .moving, some .jammed, none]
      ∧ positionOfCode 4 = none := by decide +kernel
theorem test_token_after_echo_wraps : nextToken { ValveStatus.reset with token := 254, echo := 255 } = 1 := by decide +kernel

/-- A queue of 32 notices, of which the event's part has queued the last. -/
def fullLog : Core :=
  { withValve.core with log := ⟨List.replicate 32 (.deviceReset 1), 0, 0, 31⟩ }

theorem test_table_error_joins_at_the_seam :
    ((notifyTableError 9 65535 18 { withValve.core with log := ⟨[.deviceReset 1, .deviceReset 2], 0, 0, 1⟩ }).log.notices.map
      fun n => n.code) = [1, 18, 2] := by decide +kernel
theorem test_table_error_in_a_full_queue :
    (notifyTableError 9 65535 18 fullLog).log.notices.length = 32 ∧ (notifyTableError 9 65535 18 fullLog).log.lost = 1
      ∧ ((notifyTableError 9 65535 18 fullLog).log.notices.getLast?.map fun n => n.code) = some 18
      ∧ (notifyTableError 9 65535 18 (beginPart fullLog)).log.notices = fullLog.log.notices := by decide +kernel
theorem test_table_error_follows_valve_fault :
    ((touchPlace damaged ⟨.valve, 9⟩ (faultEntry withValve.nv 1 9 .close .held granting)).log.notices.map fun n =>
      (n.kind, n.code)) = [(.valveFault, 5), (.tableError, 18)] := by decide +kernel
theorem test_table_error_does_not_drop_valve_fault :
    ((touchPlace damaged ⟨.valve, 9⟩ (faultEntry withValve.nv 1 9 .close .held { granting with
      log := ⟨List.replicate 31 (.deviceReset 1), 0, 0, 31⟩ })).log.notices.getLast?.map fun n => n.kind)
      = some .valveFault := by decide +kernel
theorem test_arbiter_begins_a_part :
    ((arbiter damaged { granting with log := ⟨[.deviceReset 1], 0, 0, 0⟩ }).log.notices.map fun n => n.kind)
      = [.deviceReset, .tableError, .valveFault] := by decide +kernel
theorem witness_bodies_read : u8 [0, 0, 0, 0, 8] 4 = 8 ∧ (sampleOf [0, 0, 0, 1, 1, 7, 1, 2, 3]) = some (1, [⟨7, true, 515⟩])
    ∧ sampleOf [0, 0, 0, 0, 1, 7, 2, 0, 0] = none ∧ sampleOf [0, 0, 0, 0, 0] = none
    ∧ positionOf [15, 3, 2, 255] = some ⟨15, .unknown, .jammed, 255⟩ ∧ positionOf [15, 4, 2, 0] = none
    ∧ withValve.nv.active.tables.actuator 20 14 = none ∧ withValve.nv.active.tables.valves.wf = true
    ∧ (withSensor .quiet none).nv.active.tables.sensors.wf = true := by decide +kernel
theorem witness_bodies_written : (⟨0, 20, 15, .close, 1800, 255⟩ : Drive).body = [15, 1, 7, 8, 255]
    ∧ (⟨⟨.east, 1, 0x15, 7⟩, .refused .state, [9], false, false⟩ : Answer).body = [0x15, 7, 7, 4, 9]
    ∧ (⟨.valveFault, 1, 255, 1023, 65535, 6⟩ : Notice).body = [0x40, 0, 0, 0, 1, 255, 3, 255, 255, 255, 6] := by
  decide +kernel
theorem witness_channels_of_a_segment : (withSensor .inhibited none).core.wu.channels.wfD .reset = true
    ∧ channelsAt 38 (withSensor .inhibited none).core = [2] ∧ channelsAt 5 (withSensor .inhibited none).core = []
    ∧ attributedTo 1 (withSensor .attributed (some 1)).core = [2]
    ∧ (channelOf 2 (releaseSegment (withSensor .inhibited none).core 38)).state = .quiet
    ∧ (channelOf 2 (inhibitSegment withValve.nv (withSensor .suspect none).core 38)).state = .inhibited := by decide +kernel
theorem witness_replan_requests : (joinQueue 1 (withIncident .isolating id).core).ip.queue = [1]
    ∧ (joinQueue 1 (joinQueue 1 (withIncident .isolating id).core)).ip.queue = [1]
    ∧ incident? 2 (withIncident .isolating id).core = none
    ∧ (withdrawReplan 1 (joinQueue 1 (withIncident .isolating id).core)).ip.queue = [] := by decide +kernel

/-- The part with an incident in a state whose reopen list holds valve 9, moved so far. -/
def ending (st : IncidentState) (p : Progress) : State := withIncident st fun i => { i with reopen := [⟨9, p⟩] }

theorem witness_entries_end :
    (∀ st ∈ [IncidentState.isolating, .suspending, .awaitingConsent, .stalled, .restoring],
      (incident? 1 (ending st .done).core).map (fun i => i.state) = some st)
      ∧ (∀ p ∈ (ending .suspending .done).core.ds.slots, p.2.owner ≠ 1)
      ∧ incident? 1 (afterEntry Nv.factory 1 (ending .restoring .done).core) = none
      ∧ afterEntry Nv.factory 1 (ending .restoring .queued).core = (ending .restoring .queued).core
      ∧ (incident? 1 (afterEntry Nv.factory 1 (ending .suspending .done).core)).map (fun i => i.state) = some .suspended
      ∧ (incident? 1 (tellFault Nv.factory 1 (ending .awaitingConsent .done).core)).map (fun i => i.owed) = some true
      ∧ (withMotion .moving false).core.ds.slots.any (fun p => p.2.owner == 1) = true
      ∧ (incident? 1 (withIncident .restoring id).core).map (fun i => i.reopen) = some [] := by decide +kernel
theorem witness_reads_by_table_state :
    started.core.ts.valid = false ∧ withValve.core.ts.valid = true
      ∧ (withValve.nv.active.tables.of .valve).at? 8 = none ∧ (withValve.nv.active.tables.of .valve).at? 9 = some valve9
      ∧ seen damaged .valve 9 (touchEntry damaged .valve 9 withValve.core) = .poisoned
      ∧ seen damaged .segment 5 (touchEntry damaged .segment 5 withValve.core) = .value segment5
      ∧ (withValve.nv.active.tables.of .valve).wf = true
      ∧ indexPoisoned .stationIndex 250 (setMark ⟨.stationIndex, 250⟩ .poisoned withValve.core) = true := by decide +kernel
theorem witness_attributed_list :
    incident? 1 (withIncident .confirming fun i => { i with attributed := [4] }).core ≠ none
      ∧ [4].filter (· ≠ 4) = ([] : List Nat) := by decide +kernel

/-- The part started, its answer queue full. -/
def fullAnswers : State := { started with ring := { started.ring with answers := List.replicate 4 sentAnswer } }

theorem witness_full_answer_queue : TakenNow (ask []) fullAnswers ∧ 4 ≤ fullAnswers.ring.answers.length
    ∧ Taken .east 1 fullAnswers := by decide +kernel
theorem test_answer_waits_in_hand :
    (match exec (.status (ask [])) fullAnswers, exec (.softReset (ask [])) fullAnswers with
      | .next t, .next u =>
        (match t.handler, u.handler with
          | .waiting a, .waiting b => a.origin.kind == 0x01 && a.data.length == 60 && b.softReset
          | _, _ => false) && t.ring.answers.length == 4
      | _, _ => false) = true := by decide +kernel

/-- The VALID part with a bank that shows one wrong bit in segment 5 and two in valve 9, its start-up check running. -/
def checkingDamaged : State :=
  { State.reset with
    nv := damaged
    core := { State.reset.core with ts := { State.reset.core.ts with checking := true } } }

theorem witness_check_of_a_damaged_bank : checkingDamaged.core.ts.valid = false ∧ checkingDamaged.core.ts.map = []
    ∧ checkingDamaged.core.ic.mode = .halt ∧ checkingDamaged.nv.generation ≠ 0
    ∧ checkingDamaged.nv.active.valid = true ∧ Place.wellFormed ⟨.valve, 1023⟩ = true
    ∧ Place.ofKey (Place.key ⟨.association, 2047⟩) = ⟨.association, 2047⟩ := by decide +kernel
theorem test_check_counts_and_reports :
    (match exec (.startUpCheckComplete [⟨.valve, 9⟩]) checkingDamaged with
      | .next t => (t.core.log.notices.map fun n => (n.valve, n.segment, n.code)) == [(65535, 65535, 1), (9, 65535, 18),
          (65535, 5, 1)] && t.core.ts.corrections == 1
      | _ => false) = true := by decide +kernel

/-- An incident on segment 5 whose closure list holds valve 9. -/
def closing : Incident :=
  { newIncident 1 5 1 ⟨0, 0, true, false, 1⟩ .manual 0 with closure := [⟨9, .boundary, .done⟩] }

theorem witness_conflict_steps :
    (oldSides withValve.nv closing 9 withValve.core).1 = some (5, 65535)
      ∧ seen damaged .valve 9 (touchEntry damaged .valve 9 withValve.core) = .poisoned
      ∧ (oldSides damaged closing 9 withValve.core).1 = some (5, 65535)
      ∧ seen withValve.nv .valve 8 (touchEntry withValve.nv .valve 8 withValve.core) = .absent
      ∧ (sidesFromLists withValve.nv 8 [5] withValve.core).1 = none
      ∧ (failingValve damaged withValve.nv.active.tables closing [9] withValve.core).1 = none
      ∧ (failingValve damaged .empty closing [9] withValve.core).1 = some 9
      ∧ (boundaryList withValve.nv 5 withValve.core).find? (fun p => p.1 == 9) = some (9, 65535)
      ∧ closing.isolation = [] ++ 5 :: [] := by decide +kernel
theorem test_conflicts_in_order :
    (firstConflict damaged withValve.nv.active.tables [closing] withValve.core).1 = none
      ∧ (firstConflict damaged { withValve.nv.active.tables with segments := [] } [closing] withValve.core).1
        = some (1, .segment, 5)
      ∧ (firstConflict damaged .empty [closing] withValve.core).1 = some (1, .valve, 9)
      ∧ ((firstConflict damaged .empty [closing] withValve.core).2.log.notices.map fun n => n.code) = [18] := by
  decide +kernel

/-- The VALID bank with one wrong bit in segment 5. -/
def oneWrong : Nv :=
  { withValve.nv with bankA := { withValve.nv.bankA with damage := [(Place.key ⟨.segment, 5⟩, .one)] } }

theorem witness_nothing_to_find_where_corrected :
    NothingToFind oneWrong (setMark ⟨.segment, 5⟩ .corrected withValve.core) := by
  intro p
  unfold Bank.wrongAt
  split
  · by_cases h : 5 = p.key
    · right; right
      unfold markAt
      rw [← h]
      exact ⟨rfl, rfl⟩
    · left
      show Sparse.at? [(5, Wrong.one)] p.key = none
      simp [Sparse.at?, h]
  · exact .inl rfl
theorem witness_write_done_with_failing_checks :
    (withCore fun c => { c with ts := { c.ts with compile := .compiling false } }).core.ts.compile = .compiling false
      ∧ compileCheck started.core.ts.shadow ≠ none := by decide +kernel

end Sys2Proof.Tests
end

section
/-! The check value of a frame (01 R4): its bit rule, its place in an originated frame, and the check of an arriving one (01 R6). -/

namespace Sys2Proof.Machine

/-! ### Multi-byte fields -/

theorem u8_lt (xs : List Byte) (i : Nat) : u8 xs i < 256 := (byteAt xs i).isLt

theorem u16_lt (xs : List Byte) (i : Nat) : u16 xs i < 65536 := by
  have hhigh := u8_lt xs i
  have hlow := u8_lt xs (i + 1)
  unfold u16
  omega

/-- A register compared with a field of two bytes: the comparison loses nothing, since the field fits the register. -/
theorem eq_ofNat_u16_iff (r : Word16) (xs : List Byte) (i : Nat) :
    r = BitVec.ofNat 16 (u16 xs i) ↔ r.toNat = u16 xs i := by
  rw [BitVec.toNat_eq, BitVec.toNat_ofNat, Nat.mod_eq_of_lt (u16_lt xs i)]

/-! ### The check register -/

@[simp] theorem crc16_nil : crc16 [] = 0xFFFF := rfl

@[simp] theorem crc16_concat (xs : List Byte) (b : Byte) : crc16 (xs ++ [b]) = crcByte (crc16 xs) b :=
  List.foldl_append

theorem crcBit_eq (r : Word16) (bit : Bool) :
    crcBit r bit = if r.msb = bit then r <<< 1 else (r <<< 1) ^^^ 0x1021 := by
  simp only [crcBit, beq_iff_eq]

/-- The bits of a byte from the most significant down are those at `7 - k` for `k` from 0 up. -/
theorem crcByte_eq_foldl_range (r : Word16) (b : Byte) :
    crcByte r b = (List.range 8).foldl (fun r k => crcBit r (b.getLsbD (7 - k))) r := by
  have hplaces : [7, 6, 5, 4, 3, 2, 1, 0] = (List.range 8).map (7 - ·) := rfl
  rw [crcByte, hplaces, List.foldl_map]

/-! ### Frames -/

theorem stationOk_iff (b : Byte) : stationOk b = true ↔ 1 ≤ b.toNat ∧ b.toNat ≤ 250 := by
  rw [stationOk, Bool.and_eq_true, decide_eq_true_eq, decide_eq_true_eq, Config.stations]

theorem destOk_iff (b : Byte) : destOk b = true ↔ (1 ≤ b.toNat ∧ b.toNat ≤ 250) ∨ b.toNat = 255 := by
  have hbroadcast : b = 255 ↔ b.toNat = 255 := BitVec.toNat_eq
  rw [destOk, Bool.or_eq_true, stationOk_iff, beq_iff_eq, hbroadcast]

/-- The checks of 01 R6 as conditions on the bytes of the frame. -/
theorem frameOk_iff (f : List Byte) :
    frameOk f = true ↔ 7 ≤ f.length ∧ u8 f 4 ≤ 240 ∧ f.length = 7 + u8 f 4
      ∧ (crc16 (f.take (5 + u8 f 4))).toNat = u16 f (5 + u8 f 4)
      ∧ ((1 ≤ u8 f 0 ∧ u8 f 0 ≤ 250) ∨ u8 f 0 = 255) ∧ 1 ≤ u8 f 1 ∧ u8 f 1 ≤ 250 := by
  simp only [frameOk, Bool.and_eq_true, decide_eq_true_eq, beq_iff_eq, eq_ofNat_u16_iff, destOk_iff, stationOk_iff,
    and_assoc]
  rfl

end Sys2Proof.Machine

namespace Sys2Proof.Proofs

open Sys2Proof Sys2Proof.Machine

/-- Settles O12: the fold over the bytes steps by one byte at its end, the fold over a byte's bits is the one over the places
counted from the top, and the check of an arriving frame compares numbers that fit the register. -/
theorem checkValueOfEveryFrame : Obligations.CheckValueOfEveryFrame := by
  refine ⟨crc16_nil, fun xs b => ?bitRule, ?nineDigits, fun h kind body => ?originated, frameOk_iff⟩
  case bitRule =>
    rw [crc16_concat, crcByte_eq_foldl_range]
    simp only [crcBit_eq]
  case nineDigits => decide +kernel
  case originated => rfl

end Sys2Proof.Proofs
end

section
/-! Loading the shadow bank (03 R40-R43): the window that LOAD WINDOW opens, and the entries that LOAD DATA and FILL write. -/

namespace Sys2Proof.Machine

/-! ### Tables and records -/

@[simp] theorem tableOfCode_code (t : TableName) : tableOfCode t.code = some t := by cases t <;> rfl

theorem tableOfCode_of_three_lt {k : Nat} (h : 3 < k) : tableOfCode k = none :=
  match k, h with
  | _ + 4, _ => rfl

theorem Tables.of_setTable (t : Tables) (n k : TableName) (m : Sparse Record) :
    (t.setTable n m).of k = if k = n then m else t.of k := by
  cases n <;> cases k <;> rfl

/-- An entry after a record is written: the record, or absent with its presence flag clear; every other as before (03 R39). -/
theorem Tables.at?_write (t : Tables) (n k : TableName) (i j : Nat) (r : Record) :
    ((t.write n i r).of k).at? j =
      if k = n ∧ j = i then (if r.present then some r else none) else (t.of k).at? j := by
  rw [Tables.write, Tables.of_setTable]
  by_cases hk : k = n
  · subst hk
    by_cases hj : j = i
    · subst hj
      by_cases hr : r.present <;> simp [hr, Sparse.at?_put_same, Sparse.at?_del_same]
    · by_cases hr : r.present <;> simp [hr, hj, Sparse.at?_put_other, Sparse.at?_del_other]
  · simp [hk]

/-- An entry after a run of records is written: inside the run its record, outside it what was there. -/
theorem Tables.at?_writeRun (n k : TableName) (j : Nat) (rs : List Record) (t : Tables) (i : Nat) :
    ((t.writeRun n i rs).of k).at? j =
      if k = n ∧ i ≤ j ∧ j < i + rs.length then (rs[j - i]?).bind fun r => if r.present then some r else none
      else (t.of k).at? j := by
  induction rs generalizing t i with
  | nil => rw [if_neg (by simp only [List.length_nil]; omega)]; rfl
  | cons r rs ih =>
    rw [Tables.writeRun, ih, Tables.at?_write, List.length_cons]
    by_cases hk : k = n
    case neg => simp only [hk, false_and, if_false]
    simp only [hk, true_and]
    obtain before | rfl | after := Nat.lt_trichotomy j i
    · rw [if_neg (by omega), if_neg (by omega), if_neg (by omega)]
    · rw [if_neg (show ¬ (j + 1 ≤ j ∧ _) by omega), if_pos (rfl : j = j),
        if_pos (show j ≤ j ∧ j < j + (rs.length + 1) by omega), Nat.sub_self]
      rfl
    · obtain ⟨m, rfl⟩ := Nat.exists_eq_add_of_lt after
      have hrest : i + m + 1 - (i + 1) = m := by omega
      have hall : i + m + 1 - i = m + 1 := by omega
      rw [hrest, hall, List.getElem?_cons_succ, if_neg (show ¬ i + m + 1 = i by omega)]
      exact ite_congr (propext (by omega)) (fun _ => rfl) (fun _ => rfl)

theorem Record.ofBytes_eq_some {bs : List Byte} {r : Record} (h : Record.ofBytes bs = some r) : bs = r.bytes := by
  unfold Record.ofBytes at h
  split at h
  · cases h
    rfl
  · cases h

theorem Record.exists_bytes {bs : List Byte} (h : bs.length = 12) : ∃ r : Record, bs = r.bytes :=
  match bs, h with
  | [b0, b1, b2, b3, b4, b5, b6, b7, b8, b9, b10, b11], _ => ⟨⟨b0, b1, b2, b3, b4, b5, b6, b7, b8, b9, b10, b11⟩, rfl⟩

@[simp] theorem recordsOf_bytes_append (r : Record) (rest : List Byte) :
    recordsOf (r.bytes ++ rest) = r :: recordsOf rest := rfl

@[simp] theorem recordsOf_bytes (r : Record) : recordsOf r.bytes = [r] := rfl

theorem length_recordsOf {n : Nat} {bs : List Byte} (h : bs.length = 12 * n) : (recordsOf bs).length = n := by
  induction n generalizing bs with
  | zero => rw [List.length_eq_zero_iff.1 h]; rfl
  | succ n ih =>
    obtain ⟨r, hfirst⟩ := Record.exists_bytes (bs := bs.take 12) (by rw [List.length_take]; omega)
    have hrest : (bs.drop 12).length = 12 * n := by rw [List.length_drop]; omega
    rw [← List.take_append_drop 12 bs, hfirst, recordsOf_bytes_append, List.length_cons, ih hrest]

/-! ### Into the window -/

theorem compileBusy_of_ne {c : Core} (h : c.ts.compile ≠ .idle) : compileBusy c = true := decide_eq_true h

theorem compileBusy_of_idle {c : Core} (h : c.ts.compile = .idle) : compileBusy c = false := by
  simp [compileBusy, h]

/-- Of a record repeated `count` times the window takes as many as it has room for (03 R43). -/
theorem loadRecords_replicate (w : LoadWindow) (count : Nat) (r : Record) (c : Core) :
    loadRecords w (List.replicate count r) c = { c with ts := { c.ts with
      shadow := c.ts.shadow.writeRun w.table w.pointer (List.replicate (w.room count) r)
      window := some { w with pointer := w.pointer + w.room count } } } := by
  have hroom : min (w.room count) count = w.room count := Nat.min_eq_left (Nat.min_le_left ..)
  simp only [loadRecords, List.length_replicate, List.take_replicate, hroom]

/-! ### LOAD WINDOW (03 R41) -/

section
variable {args : List Byte} {c : Core}

theorem doLoadWindow_busy (h : c.ts.compile ≠ .idle) : doLoadWindow args c = (plain .busy, c) := by
  rw [doLoadWindow, if_pos (compileBusy_of_ne h)]

theorem doLoadWindow_unknownTable (h : c.ts.compile = .idle) (ht : 3 < u8 args 0) :
    doLoadWindow args c = (plain .badRequest, c) := by
  rw [doLoadWindow, compileBusy_of_idle h, tableOfCode_of_three_lt ht]
  rfl

/-- LOAD WINDOW on a table the part has: its two indexes decide. -/
theorem doLoadWindow_table (h : c.ts.compile = .idle) {t : TableName} (ht : t.code = u8 args 0) :
    doLoadWindow args c =
      if u16 args 3 < u16 args 1 ∨ t.size ≤ u16 args 3 then (plain .badRequest, c)
      else (plain .done, { c with ts := { c.ts with window := some ⟨t, u16 args 1, u16 args 3, u16 args 1⟩ } }) := by
  rw [doLoadWindow, compileBusy_of_idle h, ← ht, tableOfCode_code]
  rfl

/-! ### LOAD DATA (03 R42) -/

theorem doLoadData_busy (h : c.ts.compile ≠ .idle) : doLoadData args c = (plain .busy, c) := by
  rw [doLoadData, if_pos (compileBusy_of_ne h)]

theorem doLoadData_badRequest (h : c.ts.compile = .idle)
    (hbad : u8 args 0 < 1 ∨ 20 < u8 args 0 ∨ args.length ≠ 1 + 12 * u8 args 0) :
    doLoadData args c = (plain .badRequest, c) := by
  rw [doLoadData, compileBusy_of_idle h, if_neg Bool.false_ne_true, if_pos hbad]

/-- LOAD DATA past its checks: the window decides. -/
theorem doLoadData_checked (h : c.ts.compile = .idle) (hlow : 1 ≤ u8 args 0) (hhigh : u8 args 0 ≤ 20)
    (hlength : args.length = 1 + 12 * u8 args 0) :
    (c.ts.window = none → doLoadData args c = (plain .noWindow, c))
    ∧ ∀ w, c.ts.window = some w → doLoadData args c =
      (doneWith (put8 (w.room (u8 args 0)) ++ put8 (u8 args 0 - w.room (u8 args 0))
          ++ put16 (w.pointer + w.room (u8 args 0))),
        loadRecords w (recordsOf (args.drop 1)) c) := by
  rw [doLoadData, compileBusy_of_idle h, if_neg Bool.false_ne_true, if_neg (by omega)]
  exact ⟨fun hw => by rw [hw], fun w hw => by rw [hw]⟩

/-! ### FILL (03 R43) -/

theorem doFill_busy (h : c.ts.compile ≠ .idle) : doFill args c = (plain .busy, c) := by
  rw [doFill, if_pos (compileBusy_of_ne h)]

theorem doFill_badRequest (h : c.ts.compile = .idle)
    (hbad : u16 args 12 < 1 ∨ 2048 < u16 args 12 ∨ args.length ≠ 14) : doFill args c = (plain .badRequest, c) := by
  rw [doFill, compileBusy_of_idle h, if_neg Bool.false_ne_true, if_pos hbad]

/-- FILL past its checks: the window decides. -/
theorem doFill_checked (h : c.ts.compile = .idle) (hlow : 1 ≤ u16 args 12) (hhigh : u16 args 12 ≤ 2048)
    (hlength : args.length = 14) :
    (c.ts.window = none → doFill args c = (plain .noWindow, c))
    ∧ ∀ w r, c.ts.window = some w → Record.ofBytes (args.take 12) = some r → doFill args c =
      (doneWith (put16 (w.room (u16 args 12)) ++ put16 (u16 args 12 - w.room (u16 args 12))
          ++ put16 (w.pointer + w.room (u16 args 12))),
        loadRecords w (List.replicate (u16 args 12) r) c) := by
  rw [doFill, compileBusy_of_idle h, if_neg Bool.false_ne_true, if_neg (by omega)]
  refine ⟨fun hw => by rw [hw], fun w r hw hr => ?_⟩
  rw [hw, Record.ofBytes_eq_some hr, recordsOf_bytes, List.flatMap_singleton]

end

/-! ### From the request's own rule to what is carried out (09 R175) -/

section
variable {nv : Nv} {r : Ring} {c : Core} {o : Origin} {kind tag : Byte} {args : List Byte}

theorem carry_wrongLength {n : Nat} (hkind : argumentLength kind.toNat = some n) (h : args.length ≠ n) :
    carry nv r c o (kind :: tag :: args) = ⟨plain .badRequest, nv, c⟩ := by
  simp only [carry, hkind, if_neg h]

theorem carry_rightLength {n : Nat} (hkind : argumentLength kind.toNat = some n) (h : args.length = n) :
    carry nv r c o (kind :: tag :: args) = carryKind nv r c o kind.toNat args := by
  simp only [carry, hkind, if_pos h]

theorem carry_ownLength (hkind : argumentLength kind.toNat = none) :
    carry nv r c o (kind :: tag :: args) = carryKind nv r c o kind.toNat args := by
  simp only [carry, hkind]

end

end Sys2Proof.Machine

namespace Sys2Proof.Proofs

open Sys2Proof Sys2Proof.Machine Sys2Proof.Claims

/-! ### What a taken request is answered -/

/-- Past its arrival, an answer is handed on as the statements say: its port is UP, so it joins the queue or waits in hand. -/
theorem handAnswer_eq_handed {o : Origin} {s : State} (r : Result) (d : List Byte) (hup : s.ring.isUp o.port = true) :
    handAnswer ⟨o, r, d, false, false⟩ s = handed o r d s := by
  by_cases hroom : s.ring.answers.length < 4
  · rw [handed, if_pos hroom, handAnswer_bound hroom hup]
    rfl
  · rw [handed, if_neg hroom, handAnswer_full hroom]

/-- What a taken request is answered is what carrying it out comes to. -/
theorem answers_of_carry {i : Instr} {q : Request} {kind : Byte} {s : State} {r : Result} {d : List Byte} {nv : Nv} {c : Core}
    (hrow : exec i s = .next (requestRow kind q s)) (ht : TakenNow q s)
    (hx : carry s.nv s.ring (if keepsWindow (kind :: q.tag :: q.args) then s.core else closeLoad s.core)
      (origin q kind) (kind :: q.tag :: q.args) = ⟨.answer r d, nv, c⟩) : Answers i q kind s r d nv c := by
  obtain ⟨hup, hroom, hown, hman, hready, hheld⟩ := ht
  rw [Answers, hrow, requestRow_handed kind q s r d nv c hup hroom hown hman hready hheld hx]
  exact congrArg (fun t => Host.Outcome.next (settle t))
    (handAnswer_eq_handed (o := origin q kind) (s := { s with nv := nv, core := c }) r d hup)

section
variable {q : Request} {s : State} {r : Result} {d : List Byte} {c : Core}

/-- LOAD WINDOW is carried out on the blocks with the window closed. -/
theorem answers_loadWindow (ht : TakenNow q s) (hlength : q.args.length = 5)
    (h : doLoadWindow q.args (closed s.core) = (.answer r d, c)) : Answers (.loadWindow q) q 0x10 s r d s.nv c :=
  answers_of_carry rfl ht
    ((carry_rightLength rfl hlength).trans (congrArg (Carried.keep s.nv) h))

theorem refuses_loadWindow_wrongLength (ht : TakenNow q s) (hlength : q.args.length ≠ 5) :
    Refuses (.loadWindow q) q 0x10 s .badRequest :=
  answers_of_carry rfl ht (carry_wrongLength rfl hlength)

/-- LOAD DATA is carried out with the window as it stands. -/
theorem answers_loadData (ht : TakenNow q s) (h : doLoadData q.args s.core = (.answer r d, c)) :
    Answers (.loadData q) q 0x11 s r d s.nv c :=
  answers_of_carry rfl ht ((carry_ownLength rfl).trans (congrArg (Carried.keep s.nv) h))

/-- FILL is carried out with the window as it stands. -/
theorem answers_fill (ht : TakenNow q s) (h : doFill q.args s.core = (.answer r d, c)) :
    Answers (.fill q) q 0x12 s r d s.nv c :=
  answers_of_carry rfl ht ((carry_ownLength rfl).trans (congrArg (Carried.keep s.nv) h))

end

/-! ### LOAD WINDOW -/

/-- The sizes the statement lists are those of the tables. -/
theorem size_of_mem {t : TableName} {size : Nat}
    (h : (t, size) ∈ [(TableName.segment, 512), (.valve, 1024), (.sensor, 256), (.association, 2048)]) : size = t.size := by
  simp only [List.mem_cons, Prod.mk.injEq, List.not_mem_nil, or_false] at h
  obtain ⟨rfl, rfl⟩ | ⟨rfl, rfl⟩ | ⟨rfl, rfl⟩ | ⟨rfl, rfl⟩ := h <;> rfl

/-- Settles O30: the length, the compile state, the table code and the indexes are checked in this order, each an equation of
`doLoadWindow`. -/
theorem loadWindowOpensTheWindow : Obligations.LoadWindowOpensTheWindow := by
  intro q s ht
  refine ⟨refuses_loadWindow_wrongLength ht, fun hlength hbusy => ?busy,
    fun hlength hidle => ⟨fun hcode => ?unknown, fun t size hsize hcode => ⟨fun hbad => ?indexes, fun hle hlt => ?opens⟩⟩⟩
  case busy => exact answers_loadWindow ht hlength (doLoadWindow_busy hbusy)
  case unknown => exact answers_loadWindow ht hlength (doLoadWindow_unknownTable hidle hcode)
  case indexes =>
    rw [size_of_mem hsize] at hbad
    exact answers_loadWindow ht hlength ((doLoadWindow_table (c := closed s.core) hidle hcode).trans (if_pos hbad))
  case opens =>
    rw [size_of_mem hsize] at hlt
    exact answers_loadWindow ht hlength ((doLoadWindow_table (c := closed s.core) hidle hcode).trans (if_neg (by omega)))

/-! ### LOAD DATA and FILL -/

theorem loaded_writeRun (w : LoadWindow) (rs : List Record) (old : Tables) :
    Loaded w rs old (old.writeRun w.table w.pointer rs) :=
  fun t i => Tables.at?_writeRun w.table t i rs old w.pointer

/-- Settles O31: past the checks both requests write a run of records from the pointer on, LOAD DATA those of its arguments and
FILL one record repeated. -/
theorem loadingWritesTheShadowBank : Obligations.LoadingWritesTheShadowBank := by
  refine ⟨fun q s ht => ⟨fun hbusy => ?dataBusy, fun hidle hbad => ?dataBad, fun hidle hlow hhigh hlength => ?dataLoads⟩,
    fun q s ht => ⟨fun hbusy => ?fillBusy, fun hidle hbad => ?fillBad, fun hidle hlow hhigh hlength => ?fillLoads⟩⟩
  case dataBusy => exact answers_loadData ht (doLoadData_busy hbusy)
  case dataBad => exact answers_loadData ht (doLoadData_badRequest hidle hbad)
  case dataLoads =>
    obtain ⟨hnone, hopen⟩ := doLoadData_checked hidle hlow hhigh hlength
    refine ⟨fun hw => answers_loadData ht (hnone hw), ?_⟩
    rintro w n hw rfl
    have hcount : (recordsOf (q.args.drop 1)).length = u8 q.args 0 :=
      length_recordsOf (by rw [List.length_drop]; omega)
    refine ⟨_, loaded_writeRun w _ _, answers_loadData ht ((hopen w hw).trans ?_)⟩
    rw [loadRecords, hcount]
    rfl
  case fillBusy => exact answers_fill ht (doFill_busy hbusy)
  case fillBad => exact answers_fill ht (doFill_badRequest hidle hbad)
  case fillLoads =>
    obtain ⟨hnone, hopen⟩ := doFill_checked hidle hlow hhigh hlength
    refine ⟨fun hw => answers_fill ht (hnone hw), ?_⟩
    rintro w n r hw rfl hr
    refine ⟨_, loaded_writeRun w _ _, answers_fill ht ((hopen w r hw hr).trans ?_)⟩
    rw [loadRecords_replicate]
    rfl

end Sys2Proof.Proofs
end

section
/-! An evaluated reading (04 R60-R68): the baseline's step as a signed division, and what each state of a channel makes of the
deviation just stored. -/

namespace Sys2Proof.Machine

/-! ### The step of the baseline (04 R64) -/

/-- A difference that is not negative, divided by 2 to the power `k`: the division of numbers is the signed one. -/
theorem natCast_div_two_pow (n k : Nat) : ((n / 2 ^ k : Nat) : Int) = (n : Int).tdiv (2 ^ k) := by
  rw [Int.ofNat_tdiv, Int.natCast_pow]
  rfl

/-- The baseline moves by the signed difference divided toward zero: the model's two directions are the two signs of it. -/
theorem baselineAfter_cast (k b x : Nat) :
    (baselineAfter k b x : Int) = (b : Int) + ((x : Int) * 16 - b).tdiv (2 ^ k) := by
  unfold baselineAfter
  split
  case isTrue rises =>
    have hdiff : (x : Int) * 16 - b = ((x * 16 - b : Nat) : Int) := by omega
    rw [hdiff, Int.natCast_add, natCast_div_two_pow]
  case isFalse falls =>
    have hdiff : (x : Int) * 16 - b = -((b - x * 16 : Nat) : Int) := by omega
    have hstep : (b - x * 16) / 2 ^ k ≤ b := Nat.le_trans (Nat.div_le_self ..) (Nat.sub_le ..)
    rw [hdiff, Int.neg_tdiv, Int.natCast_sub hstep, natCast_div_two_pow, Int.sub_eq_add_neg]

/-! ### The run of a channel's state (04 R65-R68) -/

section
variable {r : SensorRecord} {ch : Channel} {d : Nat}

theorem judged_quiet_below (h : ch.state = .quiet) (hd : d < r.threshold) :
    judged r { ch with deviation := d } = { ch with deviation := d, persistence := 0, release := 0 } := by
  simp only [judged, h, if_neg (Nat.not_le.2 hd)]

theorem judged_quiet_begins (h : ch.state = .quiet) (hd : r.threshold ≤ d) (hp : 1 < r.persistence) :
    judged r { ch with deviation := d } = { ch with deviation := d, state := .suspect, persistence := 1 } := by
  simp only [judged, h, if_pos hd, if_neg (Nat.not_le.2 hp)]

theorem judged_quiet_trips (h : ch.state = .quiet) (hd : r.threshold ≤ d) (hp : r.persistence ≤ 1) :
    judged r { ch with deviation := d } = tripped { ch with deviation := d } := by
  simp only [judged, h, if_pos hd, if_pos hp]

theorem judged_suspect_below (h : ch.state = .suspect) (hd : d < r.threshold) :
    judged r { ch with deviation := d } = { ch with deviation := d, state := .quiet, persistence := 0 } := by
  simp only [judged, h, if_neg (Nat.not_le.2 hd)]

theorem judged_suspect_counts (h : ch.state = .suspect) (hd : r.threshold ≤ d) (hp : ch.persistence + 1 < r.persistence) :
    judged r { ch with deviation := d } = { ch with deviation := d, persistence := ch.persistence + 1 } := by
  simp only [judged, h, if_pos hd, if_neg (Nat.not_le.2 hp)]

theorem judged_suspect_trips (h : ch.state = .suspect) (hd : r.threshold ≤ d) (hp : r.persistence ≤ ch.persistence + 1) :
    judged r { ch with deviation := d } = tripped { ch with deviation := d } := by
  simp only [judged, h, if_pos hd, if_pos hp]

/-- TRIPPED and ATTRIBUTED share one release run. -/
theorem judged_held (h : ch.state = .tripped ∨ ch.state = .attributed) :
    judged r { ch with deviation := d } = releaseRun r { ch with deviation := d } := by
  obtain h | h := h <;> simp only [judged, h]

theorem judged_held_above (h : ch.state = .tripped ∨ ch.state = .attributed) (hd : r.threshold / 2 ≤ d) :
    judged r { ch with deviation := d } = { ch with deviation := d, release := 0 } := by
  rw [judged_held h, releaseRun, if_neg (Nat.not_lt.2 hd)]

theorem judged_held_counts (h : ch.state = .tripped ∨ ch.state = .attributed) (hd : d < r.threshold / 2)
    (hp : ch.release + 1 < r.persistence) :
    judged r { ch with deviation := d } = { ch with deviation := d, release := ch.release + 1 } := by
  rw [judged_held h, releaseRun, if_pos hd, if_neg (Nat.not_le.2 hp)]

theorem judged_held_releases (h : ch.state = .tripped ∨ ch.state = .attributed) (hd : d < r.threshold / 2)
    (hp : r.persistence ≤ ch.release + 1) :
    judged r { ch with deviation := d }
      = { ch with deviation := d, state := .quiet, persistence := 0, release := 0, incident := none } := by
  rw [judged_held h, releaseRun, if_pos hd, if_pos hp]

end

theorem judged_home (r : SensorRecord) (ch : Channel) : (judged r ch).home = ch.home := by
  unfold judged releaseRun tripped
  repeat' split
  all_goals rfl

/-! ### The whole reading (04 R60-R64) -/

/-- A reading that does not end in QUIET leaves the channel as it was judged. -/
theorem tracked_eq (r : SensorRecord) (x : Nat) (ch : Channel) :
    tracked r x ch
      = { ch with baseline := if ch.state = .quiet then baselineAfter r.shift ch.baseline x else ch.baseline } := by
  unfold tracked
  split <;> rfl

theorem evaluated_of_seeding {ch : Channel} (h : ch.seeded = false ∨ ch.state = .stale) (r : SensorRecord) (x time : Nat) :
    evaluated r x time ch = stamped r x time (seeded x ch) := by
  rw [evaluated, if_pos h]

/-- A reading of a seeded channel that is not STALE: it is judged by the baseline before the reading, and only then does the
baseline move (04 R62, R64). -/
theorem evaluated_of_judging {ch : Channel} (hseeded : ch.seeded = true) (hstale : ch.state ≠ .stale) (r : SensorRecord)
    (x time d : Nat) (hd : d = deviationOf r.kind ch.baseline x) :
    evaluated r x time ch = stamped r x time { judged r { ch with deviation := d } with
      baseline := if (judged r { ch with deviation := d }).state = .quiet then baselineAfter r.shift ch.baseline x
        else ch.baseline } := by
  have hno : ¬ (ch.seeded = false ∨ ch.state = .stale) := by simp [hseeded, hstale]
  rw [evaluated, if_neg hno, tracked_eq, judged_baseline, ← hd]

theorem evaluated_home (r : SensorRecord) (x time : Nat) (ch : Channel) : (evaluated r x time ch).home = ch.home := by
  unfold evaluated
  split
  · rfl
  · rw [tracked_eq]
    exact judged_home r _

end Sys2Proof.Machine

namespace Sys2Proof.Proofs

open Sys2Proof Sys2Proof.Machine

/-- Settles O51: a reading seeds the channel or is judged by its deviation, each row of the channel's state being an equation of
`judged`; the baseline then moves by the signed step. -/
theorem readingsMoveTheirChannel : Obligations.ReadingsMoveTheirChannel := by
  rintro r x time ch _ d b rfl hd hb
  refine ⟨⟨rfl, rfl, rfl, evaluated_home r x time ch⟩, fun hseeds => ?seeding, fun hseeded hstale => ?judging⟩
  case seeding =>
    rw [evaluated_of_seeding hseeds]
    exact ⟨rfl, rfl, rfl, rfl, rfl, rfl⟩
  case judging =>
    have hbaseline : b = baselineAfter r.shift ch.baseline x :=
      Int.natCast_inj.1 (hb.trans (baselineAfter_cast r.shift ch.baseline x).symm)
    rw [evaluated_of_judging hseeded hstale r x time d hd]
    refine ⟨judged_deviation r _, fun hquiet => (if_pos hquiet).trans hbaseline.symm, fun hother => if_neg hother,
      fun h hlow => ?quietBelow, fun h hhigh hrun => ?quietBegins, fun h hhigh hrun => ?quietTrips,
      fun h hlow => ?suspectBelow, fun h hhigh hrun => ?suspectCounts, fun h hhigh hrun => ?suspectTrips,
      fun h hhigh => ?heldAbove, fun h hlow hrun => ?heldCounts, fun h hlow hrun => ?heldReleases⟩
    case quietBelow => rw [judged_quiet_below h hlow]; exact ⟨h, rfl, rfl⟩
    case quietBegins => rw [judged_quiet_begins h hhigh hrun]; exact ⟨rfl, rfl⟩
    case quietTrips => rw [judged_quiet_trips h hhigh hrun]; exact ⟨rfl, rfl, rfl⟩
    case suspectBelow => rw [judged_suspect_below h hlow]; exact ⟨rfl, rfl⟩
    case suspectCounts => rw [judged_suspect_counts h hhigh hrun]; exact ⟨h, rfl⟩
    case suspectTrips => rw [judged_suspect_trips h hhigh hrun]; exact ⟨rfl, rfl, rfl⟩
    case heldAbove => rw [judged_held_above h hhigh]; exact ⟨rfl, rfl, rfl⟩
    case heldCounts => rw [judged_held_counts h hlow hrun]; exact ⟨rfl, rfl, rfl⟩
    case heldReleases => rw [judged_held_releases h hlow hrun]; exact ⟨rfl, rfl, rfl, rfl⟩

end Sys2Proof.Proofs
end

section
/-! READ SETTINGS (09 R181): the record's settings one after the other, each in two bytes. -/

namespace Sys2Proof.Machine

/-- The data of READ SETTINGS, setting by setting in setting-number order (09 R181). -/
theorem settingsData_eq (x : Settings) :
    settingsData x = put16 x.partAddress ++ put16 x.primary ++ put16 x.standby ++ put16 x.locateWindow
      ++ put16 x.confirmation ++ put16 x.response ++ put16 x.expansionLimit ++ put16 x.outageLimit
      ++ put16 x.grantOrder ++ put16 x.startMode := by
  simp only [settingsData, Settings.list, List.flatMap_cons, List.flatMap_nil, List.append_nil, List.append_assoc]

end Sys2Proof.Machine

namespace Sys2Proof.Proofs

open Sys2Proof Sys2Proof.Machine Sys2Proof.Claims

section
variable {q : Request} {s : State}

/-- READ SETTINGS carries no arguments (09 R175, R181). -/
theorem refuses_readSettings_arguments (ht : TakenNow q s) (hargs : q.args ≠ []) :
    Refuses (.readSettings q) q 0x02 s .badRequest :=
  have hlength : q.args.length ≠ 0 := mt List.length_eq_zero_iff.1 hargs
  answers_of_carry rfl ht (carry_wrongLength rfl hlength)

/-- Without arguments it is carried out on the blocks with the window closed, and leaves them and the record as they are. -/
theorem answers_readSettings (ht : TakenNow q s) (hargs : q.args = []) :
    Answers (.readSettings q) q 0x02 s .done (settingsData s.nv.settings) s.nv (closed s.core) :=
  have hlength : q.args.length = 0 := List.length_eq_zero_iff.2 hargs
  answers_of_carry rfl ht (carry_rightLength rfl hlength)

end

/-- Settles O25: the argument length decides between the refusal and the settings of the record, which `settingsData_eq` writes
out one by one. -/
theorem readSettingsReportsTheRecord : Obligations.ReadSettingsReportsTheRecord := by
  intro q s ht
  refine ⟨refuses_readSettings_arguments ht, fun hargs => ?reports⟩
  case reports =>
    rw [← settingsData_eq]
    exact answers_readSettings ht hargs

end Sys2Proof.Proofs
end

section
/-! What a command can do, said once: the updates of the blocks and the non-volatile state (`Runs`), and with them those of the
handler, the ring and the lines (`Acts`). A property that each kind of update keeps, every command keeps. -/

namespace Sys2Proof.Machine

open Sys2Proof.Claims

/-! ### The kinds of update of the blocks and the non-volatile state -/

/-- The non-volatile state with which a compile proceeds to its swap (03 R51): as it is where the inactive bank was written
before, or with the inactive bank written now. -/
def Written (nv : Nv) (c : Core) (nv' : Nv) : Prop :=
  ((c.ts.compile = .compiling true ∨ c.ts.compile = .swapPending) ∧ nv' = nv)
    ∨ (c.ts.compile = .compiling false ∧ nv' = nv.setInactive ⟨c.ts.shadow, [], true⟩)

/-- The blocks with the new bank active: table state VALID, every place SOUND, the compile over (03 R53). -/
def adoptBank (c : Core) : Core := compileEnds .ok { c with ts := { c.ts with valid := true, map := [] } }

/-- What an event can do to the non-volatile state and the blocks: runs of `Moves`, and the updates that go beyond them. -/
inductive Runs : Nv → Core → Nv → Core → Prop where
  | trans {nv nv' nv'' : Nv} {a b c : Core} (h : Runs nv a nv' b) (k : Runs nv' b nv'' c) : Runs nv a nv'' c
  | moves {nv : Nv} {a c : Core} (h : Moves nv a c) : Runs nv a nv c
  | window (w : Option LoadWindow) (nv : Nv) (c : Core) : Runs nv c nv { c with ts := { c.ts with window := w } }
  | shadow (t : Tables) (nv : Nv) (c : Core)
      (h : TablesCanonical nv.active.tables → TablesCanonical c.ts.shadow → TablesCanonical t) :
      Runs nv c nv { c with ts := { c.ts with shadow := t } }
  | dynamic (m : Sparse Unit) (nv : Nv) (c : Core) (h : c.ts.dynamic.wf = true → m.wf = true) :
      Runs nv c nv { c with ts := { c.ts with dynamic := m } }
  | lock (b : Bool) (nv : Nv) (c : Core) : Runs nv c nv { c with ts := { c.ts with lock := b } }
  | mode (m : Mode) (nv : Nv) (c : Core) : Runs nv c nv { c with ic := { c.ic with mode := m } }
  | mask (m : Word32) (nv : Nv) (c : Core) : Runs nv c nv { c with ic := { c.ic with mask := m } }
  | sequence (station : Nat) (b : Byte) (nv : Nv) (c : Core) :
      Runs nv c nv { c with wu := { c.wu with lastSeq := c.wu.lastSeq.put station b } }
  | forgetScores (nv : Nv) (c : Core) : Runs nv c nv { c with lu := { c.lu with scores := [] } }
  | engineIdle (nv : Nv) (c : Core) : Runs nv c nv { c with ip := { c.ip with engine := .idle } }
  | endCheck (nv : Nv) (c : Core) : Runs nv c nv { c with ts := { c.ts with checking := false } }
  | tablesValid (nv : Nv) (c : Core) (h : nv.generation ≠ 0) (hb : nv.active.valid = true) :
      Runs nv c nv { c with ts := { c.ts with valid := true } }
  | beginCompile (nv : Nv) (c : Core) :
      Runs nv c (nv.setInactive { nv.inactive with valid := false }) { c with ts := { c.ts with compile := .compiling false } }
  | endCompile (r : CompileResult) (nv : Nv) (c : Core) : Runs nv c nv (compileEnds r c)
  | written (nv : Nv) (c : Core) (h : c.ts.compile = .compiling false) :
      Runs nv c (nv.setInactive ⟨c.ts.shadow, [], true⟩) { c with ts := { c.ts with compile := .compiling true } }
  | pend (nv nv' : Nv) (c : Core) (h : Written nv c nv') :
      Runs nv c nv' { c with ts := { c.ts with compile := .swapPending } }
  | abandon (nv nv' : Nv) (c d : Core) (h : Written nv c nv') (hm : Moves nv' c d) : Runs nv c nv' (compileEnds .conflict d)
  | swap (nv nv' : Nv) (c d : Core) (h : Written nv c nv') (hm : Moves nv' c d) : Runs nv c nv'.swapped (adoptBank d)

namespace Runs

variable {nv nv' : Nv} {a c : Core}

theorem refl (nv : Nv) (c : Core) : Runs nv c nv c := moves (.refl c)

/-- A run goes on with a run of `Moves`. -/
theorem then_moves {d : Core} (h : Runs nv a nv' c) (k : Moves nv' c d) : Runs nv a nv' d := h.trans (.moves k)

theorem luUpdate_of (h : Runs nv a nv' c) : Runs nv a nv' (luUpdate nv' c) := h.then_moves ((Moves.refl c).luUpdate_of nv')

theorem admission_of (h : Runs nv a nv' c) : Runs nv a nv' (admission nv' c) := h.then_moves ((Moves.refl c).admission_of nv')

theorem arbiter_of (h : Runs nv a nv' c) : Runs nv a nv' (arbiter nv' c) := h.then_moves ((Moves.refl c).arbiter_of nv')

theorem compileDone_of (h : Runs nv a nv' c) (r : CompileResult) (e : Option (TableName × Nat)) (n : Nat) :
    Runs nv a nv' (compileDone r e n c) := h.then_moves ((Moves.refl c).compileDone_of r e n)

/-! ### The swap and the start-up check (02 R27; 03 R51-R55) -/

theorem rederived_of (h : Runs nv a nv' c) (is : List Nat) : Runs nv a nv' (is.foldl (rederive nv') c) :=
  h.then_moves (Moves.foldl (fun i hi => hi.rederive_of nv' i) is (.refl c))

theorem forgotten_of (h : Runs nv a nv' c) (vs : List Nat) : Runs nv a nv' (vs.foldl forgetValve c) :=
  h.then_moves (Moves.foldl (fun v hv => hv.forgetValve_of v) vs (.refl c))

/-- A swap that is completed recomputes every score from nothing (03 R53). -/
theorem rescored_of (h : Runs nv a nv' c) (gs : List Nat) :
    Runs nv a nv' (markDirty gs { c with lu := { c.lu with scores := [] } }) :=
  (h.trans (.forgetScores nv' c)).then_moves ((Moves.refl _).markDirty_of gs)

theorem completeSwap_of (h : Runs nv a nv' (adoptBank c)) : Runs nv a nv' (completeSwap nv' c) := by
  have notices := (h.compileDone_of .ok none 0).then_moves (((Moves.refl _).notify_of .swapDone 0 Config.none16 Config.none16
    nv'.selector.code).beginPart_of)
  unfold adoptBank at notices
  unfold completeSwap
  dsimp only
  have channels := notices.rederived_of (List.range Config.sensors)
  generalize List.foldl (rederive nv') _ _ = d at channels ⊢
  exact ((((channels.forgotten_of _).rescored_of _).luUpdate_of).arbiter_of).admission_of

theorem takeSwap_of (h : Written nv c nv') : Runs nv c (takeSwap nv' c).1 (takeSwap nv' c).2 := by
  have check : Moves nv' c (firstConflict nv' nv'.inactive.tables (byOrder (live c)) c).2 :=
    Moves.firstConflict_of nv' _ _ (.refl c)
  unfold takeSwap
  split
  · next n t i d e =>
    rw [e] at check
    exact (((Runs.abandon nv nv' c d h check).compileDone_of .conflict (some (t, i)) n).luUpdate_of).admission_of
  · next d e =>
    rw [e] at check
    dsimp only
    exact (Runs.swap nv nv' c d h check).completeSwap_of

theorem proceed_of (h : Written nv c nv') : Runs nv c (proceed nv' c).1 (proceed nv' c).2 := by
  unfold proceed
  split
  · exact takeSwap_of h
  · exact .pend nv nv' c h

theorem compileWriteDone_of (nv : Nv) (c : Core) : Runs nv c (compileWriteDone nv c).1 (compileWriteDone nv c).2 := by
  unfold compileWriteDone
  split
  · next h =>
    dsimp only
    split
    · exact .written nv c h.1
    · exact proceed_of (.inr ⟨h.1, rfl⟩)
  · exact .refl nv c

theorem checkBank_of (nv : Nv) (ps : List Place) (c : Core) : Runs nv c nv (checkBank nv ps c) := by
  have ends := Runs.endCheck nv c
  unfold checkBank
  dsimp only
  split
  · exact ends
  · next h =>
    obtain ⟨hgeneration, hactive⟩ := not_or.1 h
    refine (ends.trans (.tablesValid _ _ hgeneration (by simpa using hactive))).then_moves ?_
    exact (Moves.foldl (f := fun c p => touchPlace nv p c) (fun p hp => hp.touchPlace_of nv p) _ (.refl _)).luUpdate_of nv

theorem settleMode_of (h : Runs nv a nv' c) : Runs nv a nv' (settleMode nv' c) := by
  unfold settleMode
  split
  · exact h.trans (.mode ..)
  · exact h

theorem checkComplete_of (nv : Nv) (ps : List Place) (c : Core) :
    Runs nv c (checkComplete nv ps c).1 (checkComplete nv ps c).2 := by
  have checked : Runs nv c nv (settleMode nv ((List.range Config.sensors).foldl (recordHome nv) (checkBank nv ps c))) :=
    ((checkBank_of nv ps c).then_moves (Moves.foldl (fun i hi => hi.recordHome_of nv i) _ (.refl _))).settleMode_of
  unfold checkComplete
  dsimp only
  split
  · next h => exact checked.trans (proceed_of (.inl ⟨.inl h, rfl⟩))
  · exact checked

/-! ### The end of a plan, and of a compile with an error (07 R141; 03 R50) -/

theorem planCompletion_of (nv : Nv) (c : Core) : Runs nv c (planCompletion nv c).1 (planCompletion nv c).2 := by
  unfold planCompletion
  split
  · exact .refl nv c
  · next order _ w _ =>
    have computed : Runs nv c nv (luUpdate nv (computePlan nv w c).2) :=
      .moves ((Moves.computePlan_of nv w (.refl c)).luUpdate_of nv)
    have stands := (computed.trans (.engineIdle ..)).then_moves
      (Moves.planStands_of nv (.refl _) order (computePlan nv w c).1)
    dsimp only
    split
    · next h => exact (stands.then_moves (.beginPart _)).trans (takeSwap_of (.inl ⟨.inr h, rfl⟩))
    · exact stands.then_moves (Moves.admission_of nv (.refl _))

theorem compileErrorEnd_of (nv : Nv) (w : Option Unwritten) (c : Core) : Runs nv c nv (compileErrorEnd w c) := by
  have ends (r : CompileResult) (e : Option (TableName × Nat)) : Runs nv c nv (compileDone r e 0 (compileEnds r c)) :=
    (Runs.endCompile r nv c).then_moves ((Moves.refl _).compileDone_of r e 0)
  unfold compileErrorEnd
  split
  · split
    · exact ends ..
    · exact ends ..
    · exact ends ..
    · exact .refl nv c
  · exact .refl nv c

/-! ### The copy of the active bank (03 R44) -/

theorem wf_copiedTable {nv : Nv} (h : TablesCanonical nv.active.tables) (t : TableName) (c : Core) :
    (copiedTable nv t c).wf = true := by
  obtain ⟨hsegments, hvalves, hsensors, hassociations⟩ := h
  unfold copiedTable
  split
  · cases t
    · exact Sparse.risingFrom_filter _ _ hsegments
    · exact Sparse.risingFrom_filter _ _ hvalves
    · exact Sparse.risingFrom_filter _ _ hsensors
    · exact Sparse.risingFrom_filter _ _ hassociations
  · rfl

theorem copyActive_of (nv : Nv) (c : Core) : Runs nv c nv (copyActive nv c).2 := by
  have read : Runs nv c nv (luUpdate nv (allTables.foldl (touchTable nv) c)) :=
    .moves ((Moves.foldl (fun t ht => ht.touchTable_of nv t) allTables (.refl c)).luUpdate_of nv)
  exact read.trans (.shadow _ nv _ fun h _ =>
    ⟨wf_copiedTable h .segment _, wf_copiedTable h .valve _, wf_copiedTable h .sensor _, wf_copiedTable h .association _⟩)

/-! ### Taking a SAMPLE (01 R12; 04 R60) -/

theorem value_readingsOf {body : List Byte} : ∀ {n start : Nat} {xs : List Reading}, readingsOf body start n = some xs →
    ∀ x ∈ xs, x.value ≤ 65535
  | 0, _, _, h, x, hx => by
    cases h
    exact absurd hx List.not_mem_nil
  | n + 1, start, _, h, x, hx => by
    unfold readingsOf at h
    split at h
    · obtain ⟨ys, hys, rfl⟩ := Option.map_eq_some_iff.1 h
      rcases List.mem_cons.1 hx with rfl | hx
      · exact Nat.le_of_lt_succ (u16_lt body (start + 2))
      · exact value_readingsOf hys x hx
    · cases h

theorem value_sampleOf {body : List Byte} {time : Nat} {xs : List Reading} (h : sampleOf body = some (time, xs)) :
    ∀ x ∈ xs, x.value ≤ 65535 := by
  unfold sampleOf at h
  split at h
  · obtain ⟨ys, hys, e⟩ := Option.map_eq_some_iff.1 h
    cases e
    exact value_readingsOf hys
  · cases h

theorem takeSample_of (nv : Nv) (station : Nat) (b : Byte) (time : Nat) {xs : List Reading} (hx : ∀ x ∈ xs, x.value ≤ 65535)
    (c : Core) : Runs nv c nv (takeSample nv station b time xs c) := by
  unfold takeSample
  split
  · exact .refl nv c
  · exact (Runs.sequence station b nv c).then_moves (Moves.takeReadings_of nv station time xs hx (.refl _))

/-! ### Requests (09, section 9.2) -/

theorem canonical_write {t : Tables} (h : TablesCanonical t) (n : TableName) (i : Nat) (r : Record) :
    TablesCanonical (t.write n i r) := by
  have written (m : Sparse Record) (hm : m.wf = true) : (if r.present then m.put i r else m.del i).wf = true := by
    split
    · exact Sparse.wf_put m i r hm
    · exact Sparse.wf_del m i hm
  obtain ⟨hsegments, hvalves, hsensors, hassociations⟩ := h
  cases n
  · exact ⟨written _ hsegments, hvalves, hsensors, hassociations⟩
  · exact ⟨hsegments, written _ hvalves, hsensors, hassociations⟩
  · exact ⟨hsegments, hvalves, written _ hsensors, hassociations⟩
  · exact ⟨hsegments, hvalves, hsensors, written _ hassociations⟩

theorem canonical_writeRun (n : TableName) : ∀ (rs : List Record) {t : Tables} (i : Nat), TablesCanonical t →
    TablesCanonical (t.writeRun n i rs)
  | [], _, _, h => h
  | r :: rs, _, i, h => canonical_writeRun n rs (i + 1) (canonical_write h n i r)

theorem loadRecords_of (nv : Nv) (w : LoadWindow) (rs : List Record) (c : Core) : Runs nv c nv (loadRecords w rs c) :=
  (Runs.shadow _ nv c fun _ h => canonical_writeRun w.table _ w.pointer h).trans
    (.window (some { w with pointer := w.pointer + w.room rs.length }) nv _)

theorem doSetMode_of (nv : Nv) (args : List Byte) (c : Core) : Runs nv c nv (doSetMode args c).2 := by
  unfold doSetMode
  split
  · exact .refl nv c
  · next m _ =>
    split
    · exact .refl nv c
    · split
      · exact .refl nv c
      · exact (Runs.mode m nv c).then_moves (.notify ..)

theorem doZoneMask_of (nv : Nv) (args : List Byte) (c : Core) : Runs nv c nv (doZoneMask nv args c).2 := by
  unfold doZoneMask
  split
  · exact .refl nv c
  · exact (Runs.mask _ nv c).then_moves ((Moves.refl _).admission_of nv)

theorem doLoadWindow_of (nv : Nv) (args : List Byte) (c : Core) : Runs nv c nv (doLoadWindow args c).2 := by
  unfold doLoadWindow
  split
  · exact .refl nv c
  · split
    · exact .refl nv c
    · split
      · exact .refl nv c
      · exact .window _ nv c

theorem doLoadData_of (nv : Nv) (args : List Byte) (c : Core) : Runs nv c nv (doLoadData args c).2 := by
  unfold doLoadData
  dsimp only
  split
  · exact .refl nv c
  · split
    · exact .refl nv c
    · split
      · exact .refl nv c
      · exact loadRecords_of nv _ _ c

theorem doFill_of (nv : Nv) (args : List Byte) (c : Core) : Runs nv c nv (doFill args c).2 := by
  unfold doFill
  dsimp only
  split
  · exact .refl nv c
  · split
    · exact .refl nv c
    · split
      · exact .refl nv c
      · exact loadRecords_of nv _ _ c

theorem doCompile_of (nv : Nv) (c : Core) : Runs nv c (doCompile nv c).2.1 (doCompile nv c).2.2 := by
  unfold doCompile
  split
  · exact .refl nv c
  · exact .beginCompile nv c

theorem wf_holdAfter {m : Sparse Unit} (v : Nat) (set : Bool) (h : m.wf = true) : (holdAfter m v set).wf = true := by
  unfold holdAfter
  split
  · exact Sparse.wf_put m v () h
  · exact Sparse.wf_del m v h

theorem doSetHold_of (nv : Nv) (o : Origin) (args : List Byte) (c : Core) : Runs nv c nv (doSetHold nv o args c).2 := by
  unfold doSetHold
  dsimp only
  split
  · exact .refl nv c
  · split
    · exact .dynamic _ nv c (wf_holdAfter _ _)
    · split
      · exact .refl nv c
      · split <;> exact .refl nv c

theorem doClearFault_of (nv : Nv) (args : List Byte) (c : Core) : Runs nv c nv (doClearFault args c).2 := by
  unfold doClearFault
  dsimp only
  split
  · exact .refl nv c
  · split
    · exact .moves (.setValve _ _ c (.inr (Nat.le_refl _)))
    · exact .refl nv c

/-- Carrying a request out is a run of the updates. -/
theorem carryKind_of (nv : Nv) (r : Ring) (c : Core) (o : Origin) (kind : Nat) (args : List Byte) :
    Runs nv c (carryKind nv r c o kind args).nv (carryKind nv r c o kind args).core := by
  unfold carryKind
  split
  case h_4 => exact doSetMode_of nv args c
  case h_5 => exact doZoneMask_of nv args c
  case h_6 => exact doLoadWindow_of nv args c
  case h_7 => exact doLoadData_of nv args c
  case h_8 => exact doFill_of nv args c
  case h_10 => exact doCompile_of nv c
  case h_11 => exact .moves (Moves.doReadEntry_of nv (.refl c) args)
  case h_12 => exact .moves (Moves.doRaise_of nv (.refl c) args)
  case h_13 => exact .moves (Moves.doConsent_of nv (.refl c) args)
  case h_14 => exact .moves (Moves.doRefuse_of nv (.refl c) args)
  case h_15 => exact .moves (Moves.doSuspend_of nv (.refl c) args)
  case h_16 => exact .moves (Moves.doResume_of nv (.refl c) args)
  case h_17 => exact .moves (Moves.doRelease_of nv (.refl c) args)
  case h_18 => exact .moves (Moves.doExpand_of nv (.refl c) args)
  case h_19 => exact .moves (Moves.doRetry_of nv (.refl c) args)
  case h_21 => exact doSetHold_of nv o args c
  case h_22 => exact .lock true nv c
  case h_23 => exact doClearFault_of nv args c
  all_goals exact .refl nv c

theorem carry_of (nv : Nv) (r : Ring) (c : Core) (o : Origin) (body : List Byte) :
    Runs nv c (carry nv r c o body).nv (carry nv r c o body).core := by
  unfold carry
  split
  · split
    · split
      · exact carryKind_of ..
      · exact .refl nv c
    · exact carryKind_of ..
  · exact .refl nv c

/-- What a taken request comes to, the load window closed first but for LOAD DATA and FILL (03 R40). -/
theorem carryTaken_of (nv : Nv) (r : Ring) (c : Core) (o : Origin) (body : List Byte) :
    Runs nv c (carry nv r (if keepsWindow body then c else closeLoad c) o body).nv
      (carry nv r (if keepsWindow body then c else closeLoad c) o body).core := by
  split
  · exact carry_of ..
  · exact (Runs.window none nv c).trans (carry_of ..)

end Runs

end Sys2Proof.Machine
end

section
/-! What a command can do to the whole state: the updates of `Runs`, and those of the handler, the ring, the lines and the cut-off
writes. Every command is a run of them (`exec_acts`). -/

namespace Sys2Proof.Machine

open Sys2Proof.Claims

/-! ### The settings a request may ask for (09 R180, R182) -/

/-- A write leaves its setting with the value written and every other as it was. -/
theorem Settings.getD_list_set (x : Settings) {n m : Nat} (hn : n ≤ 9) (v : Nat) :
    (x.set n v).list.getD m 0 = if m = n then v else x.list.getD m 0 := by
  have list_set : (x.set n v).list = x.list.set n v :=
    match n with
    | 0 | 1 | 2 | 3 | 4 | 5 | 6 | 7 | 8 | 9 | _ + 10 => rfl
  have hlength : n < x.list.length := by
    simp only [Settings.list, List.length_cons, List.length_nil]
    omega
  rw [list_set, List.getD_eq_getElem?_getD, List.getElem?_set]
  split
  · next e => exact (if_pos e.symm).symm
  · next e => rw [if_neg (Ne.symm e), List.getD_eq_getElem?_getD]

theorem Settings.set_set (x : Settings) (n v : Nat) : (x.set n v).set n v = x.set n v :=
  match n with
  | 0 | 1 | 2 | 3 | 4 | 5 | 6 | 7 | 8 | 9 | _ + 10 => rfl

theorem settingRange_eq {n : Nat} (hn : n ≤ 9) : settingRange n = settingBounds.getD n (0, 0) :=
  match n, hn with
  | 0, _ | 1, _ | 2, _ | 3, _ | 4, _ | 5, _ | 6, _ | 7, _ | 8, _ | 9, _ => rfl

theorem settingRange_ordered {n : Nat} (hn : n ≤ 9) : (settingRange n).1 ≤ (settingRange n).2 :=
  (by decide : ∀ n ≤ 9, (settingRange n).1 ≤ (settingRange n).2) n hn

theorem clampSetting_bounds {n : Nat} (hn : n ≤ 9) (v : Nat) :
    (settingBounds.getD n (0, 0)).1 ≤ clampSetting n v ∧ clampSetting n v ≤ (settingBounds.getD n (0, 0)).2 := by
  have hrange := settingRange_ordered hn
  rw [← settingRange_eq hn]
  unfold clampSetting
  omega

/-- A value that passes the range and the address check of SET SETTING leaves legal settings. -/
theorem legal_set {x : Settings} (h : SettingsLegal x) {n v : Nat} (hn : n ≤ 9)
    (hb : (settingBounds.getD n (0, 0)).1 ≤ v ∧ v ≤ (settingBounds.getD n (0, 0)).2)
    (hc : addressConflict x n v = false) : SettingsLegal (x.set n v) := by
  obtain ⟨hranges, hprimary, hstandby⟩ := h
  refine ⟨fun m hm => ?ranges, ?addresses⟩
  case ranges =>
    rw [Settings.getD_list_set x hn v]
    split
    · next e => exact e ▸ hb
    · exact hranges m hm
  case addresses =>
    match n, hc with
    | 0, hc =>
      simp only [addressConflict, Bool.or_eq_false_iff, beq_eq_false_iff_ne, Bool.and_eq_false_imp, bne_iff_ne] at hc
      exact hc
    | 1, hc =>
      simp only [addressConflict, beq_eq_false_iff_ne] at hc
      exact ⟨Ne.symm hc, hstandby⟩
    | 2, hc =>
      simp only [addressConflict, Bool.and_eq_false_imp, bne_iff_ne, beq_eq_false_iff_ne] at hc
      exact ⟨hprimary, fun hne => Ne.symm (hc hne)⟩
    | 3, _ | 4, _ | 5, _ | 6, _ | 7, _ | 8, _ | 9, _ => exact ⟨hprimary, hstandby⟩
    | k + 10, _ => omega

/-! ### Which replies begin the write of a setting (09 R182) -/

/-- A reply that is an answer. -/
def Reply.isAnswer : Reply → Prop
  | .answer _ _ => True
  | .work _ => False
  | .softReset => False

theorem doSetMode_answers (args : List Byte) (c : Core) : (doSetMode args c).1.isAnswer := by
  unfold doSetMode
  repeat' split
  all_goals trivial

theorem doZoneMask_answers (nv : Nv) (args : List Byte) (c : Core) : (doZoneMask nv args c).1.isAnswer := by
  unfold doZoneMask
  split <;> trivial

theorem doLoadWindow_answers (args : List Byte) (c : Core) : (doLoadWindow args c).1.isAnswer := by
  unfold doLoadWindow
  repeat' split
  all_goals trivial

theorem doLoadData_answers (args : List Byte) (c : Core) : (doLoadData args c).1.isAnswer := by
  unfold doLoadData
  dsimp only
  repeat' split
  all_goals trivial

theorem doFill_answers (args : List Byte) (c : Core) : (doFill args c).1.isAnswer := by
  unfold doFill
  dsimp only
  repeat' split
  all_goals trivial

theorem doCompile_answers (nv : Nv) (c : Core) : (doCompile nv c).1.isAnswer := by
  unfold doCompile
  split <;> trivial

theorem doReadEntry_answers (nv : Nv) (args : List Byte) (c : Core) : (doReadEntry nv args c).1.isAnswer := by
  unfold doReadEntry
  dsimp only
  repeat' split
  all_goals trivial

theorem doRaise_answers (nv : Nv) (args : List Byte) (c : Core) : (doRaise nv args c).1.isAnswer := by
  unfold doRaise
  dsimp only
  repeat' split
  all_goals trivial

theorem doConsent_answers (nv : Nv) (args : List Byte) (c : Core) : (doConsent nv args c).1.isAnswer := by
  unfold doConsent takenFor
  dsimp only
  repeat' split
  all_goals trivial

theorem doRefuse_answers (nv : Nv) (args : List Byte) (c : Core) : (doRefuse nv args c).1.isAnswer := by
  unfold doRefuse takenFor
  dsimp only
  repeat' split
  all_goals trivial

theorem doSuspend_answers (nv : Nv) (args : List Byte) (c : Core) : (doSuspend nv args c).1.isAnswer := by
  unfold doSuspend takenFor
  dsimp only
  repeat' split
  all_goals trivial

theorem doResume_answers (nv : Nv) (args : List Byte) (c : Core) : (doResume nv args c).1.isAnswer := by
  unfold doResume takenFor
  dsimp only
  repeat' split
  all_goals trivial

theorem doRelease_answers (nv : Nv) (args : List Byte) (c : Core) : (doRelease nv args c).1.isAnswer := by
  unfold doRelease releaseIncident takenFor
  dsimp only
  repeat' split
  all_goals trivial

theorem doExpand_answers (nv : Nv) (args : List Byte) (c : Core) : (doExpand nv args c).1.isAnswer := by
  unfold doExpand takenFor
  dsimp only
  repeat' split
  all_goals trivial

theorem doRetry_answers (nv : Nv) (args : List Byte) (c : Core) : (doRetry nv args c).1.isAnswer := by
  unfold doRetry takenFor
  dsimp only
  repeat' split
  all_goals trivial

theorem replyReadIncident_answers (args : List Byte) (c : Core) : (replyReadIncident args c).isAnswer := by
  unfold replyReadIncident incidentReply
  repeat' split
  all_goals trivial

theorem doClearFault_answers (args : List Byte) (c : Core) : (doClearFault args c).1.isAnswer := by
  unfold doClearFault
  dsimp only
  repeat' split
  all_goals trivial

theorem replyReadValve_answers (nv : Nv) (args : List Byte) (c : Core) : (replyReadValve nv args c).isAnswer := by
  unfold replyReadValve
  split <;> trivial

theorem replyReadSensor_answers (args : List Byte) (c : Core) : (replyReadSensor args c).isAnswer := by
  unfold replyReadSensor
  split <;> trivial

/-- A handler's state may begin the write of a setting only where that write leaves legal settings legal. -/
def Handler.Legal (h : Handler) (x : Settings) : Prop :=
  ∀ n v o, h = .working (.setting n v o) → SettingsLegal x → SettingsLegal (x.set n v)

/-- So may a reply. -/
def Reply.Legal (r : Reply) (x : Settings) : Prop :=
  ∀ n v o, r = .work (.setting n v o) → SettingsLegal x → SettingsLegal (x.set n v)

theorem Reply.legal_of_isAnswer {r : Reply} (h : r.isAnswer) (x : Settings) : r.Legal x := by
  rintro n v o rfl
  exact h.elim

theorem answer_legal (result : Result) (data : List Byte) (x : Settings) : (Reply.answer result data).Legal x :=
  Reply.legal_of_isAnswer (r := .answer result data) trivial x

theorem replySetSetting_legal (x : Settings) (mode : Mode) (o : Origin) (args : List Byte) :
    (replySetSetting x mode o args).Legal x := by
  intro n v o' e hx
  unfold replySetSetting at e
  dsimp only at e
  split at e
  · cases e
  · split at e
    · cases e
    · split at e
      · cases e
      · next hn _ hc =>
        split at e
        · cases e
        · cases e
          have hn : u8 args 0 ≤ 9 := Nat.not_lt.1 hn
          exact legal_set hx hn (clampSetting_bounds hn _) (by simpa using hc)

theorem doSetHold_legal (nv : Nv) (o : Origin) (args : List Byte) (c : Core) (x : Settings) :
    (doSetHold nv o args c).1.Legal x := by
  intro n v o' e
  unfold doSetHold at e
  dsimp only at e
  repeat' split at e
  all_goals cases e

theorem replyCopyActive_legal (o : Origin) (c : Core) (x : Settings) : (replyCopyActive o c).Legal x := by
  intro n v o' e
  unfold replyCopyActive at e
  split at e <;> cases e

theorem carryKind_legal (nv : Nv) (r : Ring) (c : Core) (o : Origin) (kind : Nat) (args : List Byte) :
    (carryKind nv r c o kind args).reply.Legal nv.settings := by
  unfold carryKind
  split
  case h_3 => exact replySetSetting_legal nv.settings c.ic.mode o args
  case h_4 => exact Reply.legal_of_isAnswer (doSetMode_answers ..) _
  case h_5 => exact Reply.legal_of_isAnswer (doZoneMask_answers ..) _
  case h_6 => exact Reply.legal_of_isAnswer (doLoadWindow_answers ..) _
  case h_7 => exact Reply.legal_of_isAnswer (doLoadData_answers ..) _
  case h_8 => exact Reply.legal_of_isAnswer (doFill_answers ..) _
  case h_9 => exact replyCopyActive_legal o c nv.settings
  case h_10 => exact Reply.legal_of_isAnswer (doCompile_answers ..) _
  case h_11 => exact Reply.legal_of_isAnswer (doReadEntry_answers ..) _
  case h_12 => exact Reply.legal_of_isAnswer (doRaise_answers ..) _
  case h_13 => exact Reply.legal_of_isAnswer (doConsent_answers ..) _
  case h_14 => exact Reply.legal_of_isAnswer (doRefuse_answers ..) _
  case h_15 => exact Reply.legal_of_isAnswer (doSuspend_answers ..) _
  case h_16 => exact Reply.legal_of_isAnswer (doResume_answers ..) _
  case h_17 => exact Reply.legal_of_isAnswer (doRelease_answers ..) _
  case h_18 => exact Reply.legal_of_isAnswer (doExpand_answers ..) _
  case h_19 => exact Reply.legal_of_isAnswer (doRetry_answers ..) _
  case h_20 => exact Reply.legal_of_isAnswer (replyReadIncident_answers ..) _
  case h_21 => exact doSetHold_legal nv o args c nv.settings
  case h_23 => exact Reply.legal_of_isAnswer (doClearFault_answers ..) _
  case h_24 => exact Reply.legal_of_isAnswer (replyReadValve_answers ..) _
  case h_25 => exact Reply.legal_of_isAnswer (replyReadSensor_answers ..) _
  case h_26 =>
    intro n v o' e
    cases e
  all_goals exact answer_legal _ _ nv.settings

theorem carry_legal (nv : Nv) (r : Ring) (c : Core) (o : Origin) (body : List Byte) :
    (carry nv r c o body).reply.Legal nv.settings := by
  unfold carry
  split
  · split
    · split
      · exact carryKind_legal nv r c o _ _
      · exact answer_legal _ _ nv.settings
    · exact carryKind_legal nv r c o _ _
  · exact answer_legal _ _ nv.settings

theorem Runs.settings {nv nv' : Nv} {a c : Core} (h : Runs nv a nv' c) : nv'.settings = nv.settings := by
  induction h with
  | trans _ _ i k => exact k.trans i
  | beginCompile => exact Nv.setInactive_settings ..
  | written => exact Nv.setInactive_settings ..
  | pend nv nv' c h =>
    obtain ⟨_, rfl⟩ | ⟨_, rfl⟩ := h
    · rfl
    · exact Nv.setInactive_settings ..
  | abandon nv nv' c d h =>
    obtain ⟨_, rfl⟩ | ⟨_, rfl⟩ := h
    · rfl
    · exact Nv.setInactive_settings ..
  | swap nv nv' c d h =>
    obtain ⟨_, rfl⟩ | ⟨_, rfl⟩ := h
    · rfl
    · exact Nv.setInactive_settings ..
  | _ => rfl

end Sys2Proof.Machine
end

section
/-! What a command can do to the whole state (`Acts`): every command is a run of its updates. -/

namespace Sys2Proof.Machine

open Sys2Proof.Claims

/-- The kinds of update of a command, and their runs; those of the supplies and the RESET input only where they are allowed. -/
inductive Acts (resets : Prop) : State → State → Prop where
  | trans {s t u : State} (h : Acts resets s t) (k : Acts resets t u) : Acts resets s u
  | blocks {s : State} {nv : Nv} {c : Core} (h : Runs s.nv s.core nv c) : Acts resets s { s with nv := nv, core := c }
  | outputs {s t : State} (h : OutputsOnly s t) : Acts resets s t
  | ring (r : Ring) (s : State) (hb : r.bypass = true → s.ring.bypass = true)
      (hu : ∀ p, r.isUp p = true → s.ring.isUp p = true ∨ r.bypass = false) : Acts resets s { s with ring := r }
  | handler (h : Handler) (s : State) (hl : h.Legal s.nv.settings) : Acts resets s { s with handler := h }
  | lands (s : State) : Acts resets s { s with nv := writeLands s.handler s.nv }
  | softReset (s : State) : Acts resets s (softReset s)
  | cold (h : resets) (s : State) : Acts resets s (coldState s)
  | loss (h : resets) (cut : Cut) (s : State) : Acts resets s (coldState { s with nv := cutWrites cut s })
  | lines (h : resets) (l : Lines) (s : State) : Acts resets s { s with lines := l }
  | startUp (h : resets) (s : State) : Acts resets s (beginStartUp s)

namespace Acts

variable {R : Prop} {a s : State}

theorem refl (s : State) : Acts R s s := .outputs (.refl s)

theorem blocks_of (h : Acts R a s) {nv : Nv} {c : Core} (hr : Runs s.nv s.core nv c) :
    Acts R a { s with nv := nv, core := c } := h.trans (.blocks hr)

theorem core_of (h : Acts R a s) {c : Core} (hr : Runs s.nv s.core s.nv c) : Acts R a { s with core := c } := h.blocks_of hr

/-- A change of the ring that leaves BYPASS and the links. -/
theorem ring_of (h : Acts R a s) (r : Ring) (hb : r.bypass = s.ring.bypass) (hu : ∀ p, r.isUp p = s.ring.isUp p) :
    Acts R a { s with ring := r } := h.trans (.ring r s (fun e => hb ▸ e) fun p e => .inl (hu p ▸ e))

theorem handler_of (h : Acts R a s) {x : Handler} (hl : x.Legal s.nv.settings) : Acts R a { s with handler := x } :=
  h.trans (.handler x s hl)

theorem settle_of (h : Acts R a s) : Acts R a (settle s) := h.trans (.outputs (settle_only s))

theorem softReset_of (h : Acts R a s) : Acts R a (Machine.softReset s) := h.trans (.softReset s)

theorem endEvent_of (h : Acts R a s) : Acts R a (endEvent s) := h.trans (.outputs (endEvent_only s))

/-- The fields of the ring that neither BYPASS nor a link is one of. -/
theorem isUp_eq {r q : Ring} (he : r.east = q.east) (hw : r.west = q.west) (p : Port) : r.isUp p = q.isUp p := by
  cases p
  · exact congrArg PortState.up he
  · exact congrArg PortState.up hw

theorem legal_ready (x : Settings) : Handler.Legal .ready x := fun _ _ _ e => by cases e

theorem legal_resetPending (x : Settings) : Handler.Legal .resetPending x := fun _ _ _ e => by cases e

theorem legal_waiting (w : Answer) (x : Settings) : Handler.Legal (.waiting w) x := fun _ _ _ e => by cases e

/-! ### Answers (01 R16, 09 R174) -/

theorem joinAnswers_of (h : Acts R a s) (w : Answer) : Acts R a (joinAnswers w s) := by
  unfold joinAnswers
  split
  · next p _ =>
    refine (h.ring_of { s.ring with
      answers := s.ring.answers ++ [{ w with origin := { w.origin with port := p } }] } rfl (isUp_eq rfl rfl)).handler_of ?_
    split
    · exact legal_resetPending _
    · exact legal_ready _
  · split
    · exact h.softReset_of
    · exact h.handler_of (legal_ready _)

theorem handAnswer_of (h : Acts R a s) (w : Answer) : Acts R a (handAnswer w s) := by
  unfold handAnswer
  split
  · exact h.joinAnswers_of w
  · exact h.handler_of (legal_waiting w _)

theorem handReply_of (h : Acts R a s) (o : Origin) {r : Reply} (hl : r.Legal s.nv.settings) : Acts R a (handReply o r s) := by
  unfold handReply
  split
  · exact h.handAnswer_of _
  · next job => exact h.handler_of fun n v o' e => hl n v o' (by cases e; rfl)
  · exact h.handAnswer_of _

/-! ### Taking requests (09 R174, R175) -/

theorem takeRequest_of (h : Acts R a s) (p : Port) (station : Byte) (body : List Byte) :
    Acts R a (takeRequest p station body s) := by
  have carried := Runs.carryTaken_of s.nv s.ring s.core (originOf p station body) body
  have legal := carry_legal s.nv s.ring (if keepsWindow body then s.core else closeLoad s.core) (originOf p station body) body
  rw [← carried.settings] at legal
  exact (h.blocks_of carried).handReply_of _ legal

theorem takeRequests_of : ∀ (n : Nat) {s : State}, Acts R a s → Acts R a (takeRequests n s)
  | 0, _, h => h
  | n + 1, s, h => by
    unfold takeRequests
    split
    · next p station body rest _ _ =>
      exact takeRequests_of n
        ((h.ring_of { s.ring with buffers := rest } rfl (isUp_eq rfl rfl)).takeRequest_of p station body).endEvent_of
    · exact h

theorem serve_of (h : Acts R a s) : Acts R a (serve s) := takeRequests_of _ h

theorem answerLeft_of (h : Acts R a s) (wasSoftReset : Bool) : Acts R a (answerLeft wasSoftReset s) := by
  unfold answerLeft
  split
  · exact h.softReset_of
  · split
    · split
      · exact (h.joinAnswers_of _).serve_of
      · exact h
    · exact h

/-! ### The ends of operations that take time (02 R36; 03 R44; 09 R182) -/

theorem retire_of (h : Acts R a s) (nv : Nv) (n : Nat) : Acts R a { s with ring := retire nv n s.ring } := by
  unfold retire
  split
  · exact h.ring_of { s.ring with retired := _ } rfl (isUp_eq rfl rfl)
  · exact h

theorem settingWritten_of (h : Acts R a s) : Acts R a (settingWritten s) := by
  unfold settingWritten
  split
  · next n v o _ => exact (((h.trans (.lands s)).retire_of s.nv n).handAnswer_of _).serve_of
  · exact h

theorem holdWritten_of (h : Acts R a s) : Acts R a (holdWritten s) := by
  unfold holdWritten
  split
  · exact ((h.trans (.lands s)).handAnswer_of _).serve_of
  · exact h

theorem copyDone_of (h : Acts R a s) : Acts R a (copyDone s) := by
  unfold copyDone
  split
  · exact ((h.core_of (Runs.copyActive_of s.nv s.core)).handAnswer_of _).serve_of
  · exact h

/-! ### Arriving frames and requests (01 R6-R13) -/

theorem hold_of (h : Acts R a s) (p : Port) (x : Held) : Acts R a { s with ring := s.ring.hold p x } :=
  h.ring_of (s.ring.hold p x) rfl (isUp_eq rfl rfl)

theorem countBad_of (h : Acts R a s) : Acts R a (countBad s) :=
  h.ring_of { s.ring with badFrame := _ } rfl (isUp_eq rfl rfl)

theorem countOverflow_of (h : Acts R a s) : Acts R a (countOverflow s) :=
  h.ring_of { s.ring with overflow := _ } rfl (isUp_eq rfl rfl)

theorem consumeRequest_of (h : Acts R a s) (p : Port) (station : Byte) (body : List Byte) :
    Acts R a (consumeRequest p station body s) := by
  unfold consumeRequest
  split
  · exact (h.hold_of p (.request station body)).serve_of
  · exact h.ring_of { s.ring with refusedSource := _ } rfl (isUp_eq rfl rfl)

theorem snoop_of (h : Acts R a s) (f : List Byte) : Acts R a (snoop f s) := by
  unfold snoop
  split
  · unfold snoopSample
    split
    · next e => exact h.core_of (Runs.takeSample_of s.nv _ _ _ (Runs.value_sampleOf e) s.core)
    · exact h.countBad_of
  · split
    · unfold snoopPosition
      split
      · exact h.core_of (.moves ((Moves.positionReport_of s.nv (.refl s.core) _ _).luUpdate_of s.nv))
      · exact h.countBad_of
    · exact h

theorem forward_of (h : Acts R a s) (p : Port) (f : List Byte) : Acts R a (forward p f s) := by
  unfold forward
  split
  · exact h.hold_of p (.forward f false)
  · exact h

theorem takeFrame_of (h : Acts R a s) (p : Port) (f : List Byte) : Acts R a (takeFrame p f s) := by
  unfold takeFrame
  split
  · exact h
  · split
    · split
      · exact h.consumeRequest_of ..
      · exact h
    · exact (h.forward_of p f).snoop_of f

theorem frameArrives_of (h : Acts R a s) (p : Port) (f : List Byte) : Acts R a (frameArrives p f s) := by
  unfold frameArrives
  split
  · exact h
  · split
    · exact h.countOverflow_of
    · split
      · exact h.takeFrame_of p f
      · exact h.countBad_of

theorem requestArrives_of (h : Acts R a s) (p : Port) (station : Byte) (body : List Byte) :
    Acts R a (requestArrives p station body s) := by
  unfold requestArrives
  split
  · exact h
  · split
    · exact h.countOverflow_of
    · split
      · exact h
      · exact h.consumeRequest_of ..

/-! ### Transmissions and links (01 R1, R14, R18) -/

/-- A change of one port that leaves its link. -/
theorem setPort_of (h : Acts R a s) (p : Port) (x : PortState) (hx : x.up = s.ring.isUp p) :
    Acts R a { s with ring := s.ring.setPort p x } :=
  have same := RingOutputs.setPort s.ring p x hx
  h.ring_of _ same.bypass same.up

theorem releaseSent_of (h : Acts R a s) (p : Port) (what : Sent) : Acts R a (releaseSent p what s) := by
  unfold releaseSent
  split
  · exact h.ring_of { s.ring with buffers := _ } rfl (isUp_eq rfl rfl)
  · exact h.setPort_of p _ rfl
  · have left := h.ring_of { s.ring with answers := s.ring.answers.filter fun x => !x.sentAt p } rfl (isUp_eq rfl rfl)
    dsimp only
    split
    · exact left
    · exact left.answerLeft_of _
  · exact h

theorem transmissionEnds_of (h : Acts R a s) (p : Port) : Acts R a (transmissionEnds p s) := by
  unfold transmissionEnds
  split
  · exact h
  · exact (h.setPort_of p { s.ring.port p with output := .idle } rfl).releaseSent_of p _

theorem linkComesUp_of (h : Acts R a s) (p : Port) : Acts R a (linkComesUp p s) := by
  unfold linkComesUp
  split
  · exact h
  · next hdown =>
    have hbypass : s.ring.bypass = false := by simpa using (not_or.1 hdown).1
    exact h.trans (.ring _ s (fun e => by rw [Ring.setPort_bypass] at e; exact e)
      fun _ _ => .inr ((Ring.setPort_bypass ..).trans hbypass))

theorem isUp_setPort_down (r : Ring) (p q : Port) (x : PortState) (hx : x.up = false)
    (h : (r.setPort p x).isUp q = true) : r.isUp q = true := by
  cases p <;> cases q
  · exact absurd (hx.symm.trans h) Bool.false_ne_true
  · exact h
  · exact h
  · exact absurd (hx.symm.trans h) Bool.false_ne_true

theorem linkGoesDown_of (h : Acts R a s) (p : Port) : Acts R a (linkGoesDown p s) := by
  unfold linkGoesDown
  split
  · have down : Acts R a { s with ring := { s.ring.setPort p ⟨false, .idle, []⟩ with
        buffers := s.ring.buffers.filter fun b => !b.isFor p
        answers := rebind p (s.ring.isUp p.other) s.ring.answers } } := by
      refine h.trans (.ring _ s (fun e => ?_) fun q e => .inl ?_)
      · exact (Ring.setPort_bypass ..).symm.trans e
      · exact isUp_setPort_down s.ring p q ⟨false, .idle, []⟩ rfl ((isUp_eq rfl rfl q).trans e)
    dsimp only
    split
    · exact down
    · exact down.answerLeft_of _
  · exact h

/-! ### Resets and start-up (01 R2) -/

theorem startIfReady_of (hR : R) (h : Acts R a s) : Acts R a (startIfReady s) := by
  unfold startIfReady
  split
  · exact h.trans (.startUp hR s)
  · exact h

theorem powerOn_of (hR : R) (s : State) : Acts R s (powerOn s) := startIfReady_of hR ((Acts.lines hR _ s).trans (.cold hR _))

theorem powerLoss_of (hR : R) (cut : Cut) (s : State) : Acts R s (powerLoss cut s) := by
  unfold powerLoss
  split
  · exact (Acts.loss hR cut s).trans (.lines hR _ _)
  · exact .refl s

theorem lineReset_of (hR : R) (cut : Cut) (s : State) : Acts R s (lineReset cut s) := by
  unfold lineReset
  split
  · exact (Acts.loss hR cut s).trans (.lines hR _ _)
  · exact .lines hR _ s

theorem resetRelease_of (hR : R) (s : State) : Acts R s (resetRelease s) := by
  unfold resetRelease
  split
  · exact startIfReady_of hR (.lines hR _ s)
  · exact .refl s

/-! ### Events of the blocks -/

theorem coreEvent_of {f : Nv → Core → Core} (hf : ∀ nv c, Runs nv c nv (f nv c)) (s : State) : Acts R s (coreEvent f s) :=
  ((Acts.refl s).core_of (hf s.nv s.core).luUpdate_of).settle_of

theorem swapEvent_of {f : Nv → Core → Nv × Core} (hf : ∀ nv c, Runs nv c (f nv c).1 (f nv c).2) (s : State) :
    Acts R s (swapEvent f s) := ((Acts.refl s).blocks_of (hf s.nv s.core).luUpdate_of).settle_of

theorem startUpComplete_of (ps : List Place) (s : State) : Acts R s (startUpComplete ps s) := by
  unfold startUpComplete
  split
  · have released : Acts R s { s with ring := { s.ring with bypass := false } } :=
      .ring _ s (fun e => absurd e Bool.false_ne_true) fun _ _ => .inr rfl
    exact released.trans (swapEvent_of (fun nv c => Runs.checkComplete_of nv ps c) _)
  · exact .refl s

theorem softResetTakesPlace_of (s : State) : Acts R s (softResetTakesPlace s) := by
  unfold softResetTakesPlace
  split
  · split
    · exact ((Acts.refl s).transmissionEnds_of _).settle_of
    · exact .refl s
  · exact .refl s

theorem requestRow_of (kind : Byte) (q : Request) (s : State) : Acts R s (requestRow kind q s) :=
  ((Acts.refl s).requestArrives_of ..).settle_of

end Acts

/-- The commands of the supplies and the RESET input. -/
def Instr.isReset : Instr → Bool
  | .powerOn | .powerLoss _ | .lineReset _ | .resetRelease => true
  | _ => false

/-- Every command answers a next state, and gets there by a run of the updates. -/
theorem exec_acts (i : Instr) (s : State) : ∃ t, exec i s = .next t ∧ Acts (Instr.isReset i = true) s t := by
  cases i
  case powerOn => exact ⟨_, rfl, Acts.powerOn_of rfl s⟩
  case lineReset cut => exact ⟨_, rfl, Acts.lineReset_of rfl cut s⟩
  case resetRelease => exact ⟨_, rfl, Acts.resetRelease_of rfl s⟩
  case startUpCheckComplete ps => exact ⟨_, rfl, Acts.startUpComplete_of ps s⟩
  case linkUp p => exact ⟨_, rfl, ((Acts.refl s).linkComesUp_of p).settle_of⟩
  case linkDown p => exact ⟨_, rfl, ((Acts.refl s).linkGoesDown_of p).settle_of⟩
  case frameArrival p f => exact ⟨_, rfl, ((Acts.refl s).frameArrives_of p f).settle_of⟩
  case transmitCompletion p => exact ⟨_, rfl, ((Acts.refl s).transmissionEnds_of p).settle_of⟩
  case softResetTakesPlace => exact ⟨_, rfl, Acts.softResetTakesPlace_of s⟩
  case requestUnknownKind p station body => exact ⟨_, rfl, ((Acts.refl s).requestArrives_of p station body).settle_of⟩
  case settingWriteDone => exact ⟨_, rfl, ((Acts.refl s).settingWritten_of).settle_of⟩
  case persistentHoldWriteDone => exact ⟨_, rfl, ((Acts.refl s).holdWritten_of).settle_of⟩
  case copyActiveDone => exact ⟨_, rfl, ((Acts.refl s).copyDone_of).settle_of⟩
  case compileErrorEnd w => exact ⟨_, rfl, Acts.coreEvent_of (fun nv c => Runs.compileErrorEnd_of nv w c) s⟩
  case compileWriteDone => exact ⟨_, rfl, Acts.swapEvent_of Runs.compileWriteDone_of s⟩
  case stalenessExpiry i => exact ⟨_, rfl, Acts.coreEvent_of (fun nv c => .moves (Moves.stalenessExpiry_of nv (.refl c) i)) s⟩
  case windowExpiry z => exact ⟨_, rfl, Acts.coreEvent_of (fun nv c => .moves (Moves.windowExpiry_of nv (.refl c) z)) s⟩
  case confirmationExpiry n =>
    exact ⟨_, rfl, Acts.coreEvent_of (fun _ c => .moves (Moves.confirmationExpiry_of (.refl c) n)) s⟩
  case planCompletion => exact ⟨_, rfl, Acts.swapEvent_of Runs.planCompletion_of s⟩
  case responseTimerExpiry k => exact ⟨_, rfl, Acts.coreEvent_of (fun nv c => .moves (Moves.responseExpiry_of nv (.refl c) k)) s⟩
  case strokeTimerExpiry k => exact ⟨_, rfl, Acts.coreEvent_of (fun nv c => .moves (Moves.strokeExpiry_of nv (.refl c) k)) s⟩
  case powerLoss cut => exact ⟨_, rfl, Acts.powerLoss_of rfl cut s⟩
  all_goals exact ⟨_, rfl, Acts.requestRow_of _ _ s⟩

theorem Acts.pending {R : Prop} {s t : State} (h : Acts R s t) : t.pending = s.pending := by
  induction h with
  | trans _ _ i k => exact k.trans i
  | outputs h => exact h.pending
  | _ => rfl

/-- The lines change only at the commands of the supplies and the RESET input. -/
theorem Acts.lines_eq {s t : State} (h : Acts False s t) : t.lines = s.lines := by
  induction h with
  | trans _ _ i k => exact k.trans i
  | outputs h => exact h.lines
  | cold h | loss h | lines h | startUp h => exact h.elim
  | _ => rfl

/-- What every command keeps and a millisecond keeps, every step keeps, where it says nothing of the queue of commands. -/
theorem keptByEveryStep_of {inv : State → Prop} (hq : ∀ s q, inv s → inv { s with pending := q })
    (ht : ∀ s, inv s → inv (tick s)) (he : ∀ i s t, exec i s = .next t → inv s → inv t) : KeptByEveryStep inv := by
  intro s t h hstep
  unfold step at hstep
  split at hstep
  · cases hstep
    exact ht s h
  · next i rest _ => exact he i _ t hstep (hq s rest h)

theorem keptByEveryStep_of_acts {inv : State → Prop} (hq : ∀ s q, inv s → inv { s with pending := q })
    (ht : ∀ s, inv s → inv (tick s)) (ha : ∀ {R s t}, Acts R s t → inv s → inv t) : KeptByEveryStep inv :=
  keptByEveryStep_of hq ht fun i s t e h => by
    obtain ⟨u, hu, acts⟩ := exec_acts i s
    rw [hu] at e
    cases e
    exact ha acts h

end Sys2Proof.Machine

namespace Sys2Proof.Proofs

open Sys2Proof Sys2Proof.Machine

/-- Settles O5: no update of a command touches the queue of waiting commands. -/
theorem everyCommandAnswersANextState : Obligations.EveryCommandAnswersANextState := fun i s =>
  let ⟨t, ht, acts⟩ := exec_acts i s
  ⟨t, ht, acts.pending⟩

end Sys2Proof.Proofs
end

section
/-! Invariants of the tables, the settings, the arrays and the values (O56, O57, O59, O60): each kind of update of `Runs` and of
`Acts` keeps them, and so does a millisecond. -/

namespace Sys2Proof.Machine

open Sys2Proof.Claims

/-! ### A millisecond (09 R184; 02, section 2.4) -/

theorem Sparse.at?_mapValues {α β : Type} (f : α → β) (m : Sparse α) (k : Nat) :
    Sparse.at? (m.map fun p => (p.1, f p.2)) k = (m.at? k).map f := by
  induction m with
  | nil => rfl
  | cons p rest ih =>
    obtain ⟨i, a⟩ := p
    simp only [List.map_cons, Sparse.at?]
    split
    · rfl
    · exact ih

theorem Sparse.wf_mapValues {α β : Type} (f : α → β) {m : Sparse α} (h : m.wf = true) :
    Sparse.wf (m.map fun p => (p.1, f p.2)) = true := Sparse.risingFrom_map m _ (fun _ => rfl) h

/-- A change of every value under which no other value becomes the unlisted one keeps the canonical form. -/
theorem Sparse.wfD_mapValues {α β : Type} [DecidableEq α] [DecidableEq β] {d : α} {e : β} {f : α → β} {m : Sparse α}
    (hf : ∀ a, f a = e → a = d) (h : m.wfD d = true) : Sparse.wfD e (m.map fun p => (p.1, f p.2)) = true := by
  simp only [Sparse.wfD, Bool.and_eq_true, List.all_eq_true, decide_eq_true_eq] at h ⊢
  refine ⟨Sparse.wf_mapValues f h.1, fun q hq => ?_⟩
  obtain ⟨p, hp, rfl⟩ := List.mem_map.1 hq
  exact fun e => h.2 p hp (hf _ e)

theorem elapse_eq_none {t : Option Nat} (h : elapse t = none) : t = none := Option.map_eq_none_iff.1 h

theorem Channel.elapse_eq_reset {ch : Channel} (h : ch.elapse = .reset) : ch = .reset := by
  obtain ⟨state, seeded, baseline, deviation, persistence, release, timer, incident, home, reading, time⟩ := ch
  simp only [Channel.elapse, Channel.reset, Channel.mk.injEq] at h ⊢
  obtain ⟨h1, h2, h3, h4, h5, h6, htimer, h8⟩ := h
  exact ⟨h1, h2, h3, h4, h5, h6, elapse_eq_none htimer, h8⟩

theorem Window.elapse_eq_closed {w : Window} (h : w.elapse = .closed) : w = .closed := by
  cases w with
  | closed => rfl
  | opened n => cases h
  | deferred => cases h

theorem channelOf_elapse (b : Bool) (i : Nat) (c : Core) : channelOf i (c.elapse b) = (channelOf i c).elapse := by
  simp only [channelOf, Core.elapse, Sparse.atD, Sparse.at?_mapValues]
  cases c.wu.channels.at? i <;> rfl

@[simp] theorem wearOut_selector (l : Option (BankId × Place)) (nv : Nv) : (wearOut l nv).selector = nv.selector := by
  unfold wearOut
  split
  · exact Nv.setBank_selector ..
  · rfl

@[simp] theorem wearOut_generation (l : Option (BankId × Place)) (nv : Nv) : (wearOut l nv).generation = nv.generation := by
  unfold wearOut
  split
  · exact Nv.setBank_generation ..
  · rfl

@[simp] theorem wearOut_settings (l : Option (BankId × Place)) (nv : Nv) : (wearOut l nv).settings = nv.settings := by
  unfold wearOut
  split
  · exact Nv.setBank_settings ..
  · rfl

@[simp] theorem wearOut_persistent (l : Option (BankId × Place)) (nv : Nv) : (wearOut l nv).persistent = nv.persistent := by
  unfold wearOut
  split
  · exact Nv.setBank_persistent ..
  · rfl

/-- Wear leaves of each bank its tables and its mark. -/
theorem wearOut_bank (l : Option (BankId × Place)) (nv : Nv) (id : BankId) :
    ((wearOut l nv).bank id).tables = (nv.bank id).tables ∧ ((wearOut l nv).bank id).valid = (nv.bank id).valid
      ∧ ((nv.bank id).damage.wf = true → ((wearOut l nv).bank id).damage.wf = true) := by
  have lose (b : Bank) (p : Place) : (loseBit b p).tables = b.tables ∧ (loseBit b p).valid = b.valid
      ∧ (b.damage.wf = true → (loseBit b p).damage.wf = true) := by
    unfold loseBit
    split
    · exact ⟨rfl, rfl, Sparse.wf_put _ _ _⟩
    · exact ⟨rfl, rfl, fun h => h⟩
  unfold wearOut
  split
  · next k p =>
    cases id <;> cases k
    · exact lose nv.bankA p
    · exact ⟨rfl, rfl, fun h => h⟩
    · exact ⟨rfl, rfl, fun h => h⟩
    · exact lose nv.bankB p
  · exact ⟨rfl, rfl, fun h => h⟩

theorem wearOut_active_valid (l : Option (BankId × Place)) (nv : Nv) : (wearOut l nv).active.valid = nv.active.valid := by
  unfold Nv.active
  rw [wearOut_selector]
  exact (wearOut_bank l nv _).2.1

theorem wearOut_inactive_valid (l : Option (BankId × Place)) (nv : Nv) :
    (wearOut l nv).inactive.valid = nv.inactive.valid := by
  unfold Nv.inactive
  rw [wearOut_selector]
  exact (wearOut_bank l nv _).2.1

/-! ### Writes cut off (02 R26, 03 R57; log 10) -/

/-- The event that would take a swap now is a run of the updates. -/
theorem swapNow_runs (s : State) : ∃ c, Runs s.nv s.core (swapNow s) c := by
  unfold swapNow
  split
  · exact ⟨_, .refl _ _⟩
  · exact ⟨_, Runs.checkComplete_of s.nv [] s.core⟩
  · exact ⟨_, Runs.compileWriteDone_of s.nv s.core⟩
  · exact ⟨_, Runs.planCompletion_of s.nv s.core⟩

/-- The selector word is left as it was or as written, whatever bank was written. -/
theorem cutSwap_cases (written : Bool) (s : State) : cutSwap written s = s.nv ∨ cutSwap written s = swapNow s
    ∨ cutSwap written s = { swapNow s with selector := s.nv.selector, generation := s.nv.generation } := by
  unfold cutSwap
  dsimp only
  split
  · exact .inl rfl
  · split
    · exact .inr (.inl rfl)
    · exact .inr (.inr rfl)

theorem cutSwap_settings (written : Bool) (s : State) : (cutSwap written s).settings = s.nv.settings := by
  obtain ⟨c, runs⟩ := swapNow_runs s
  obtain e | e | e := cutSwap_cases written s
  · rw [e]
  · rw [e]; exact runs.settings
  · rw [e]; exact runs.settings

/-- What is cut off ends either way: the selector's write and, apart from it, the handler's. -/
theorem cutWrites_cases (cut : Cut) (s : State) : ∃ nv, (nv = s.nv ∨ nv = cutSwap cut.swapWritten s)
    ∧ (cutWrites cut s = nv ∨ cutWrites cut s = writeLands s.handler nv) := by
  refine ⟨if cut.inSwap then cutSwap cut.swapWritten s else s.nv, ?_, ?_⟩
  · split
    · exact .inr rfl
    · exact .inl rfl
  · unfold cutWrites
    dsimp only
    split
    · exact .inr rfl
    · exact .inl rfl

/-! ### Settings (09 R180, R182) -/

/-- The settings a write leaves, as the handler's state has them. -/
theorem writeLands_settings (h : Handler) (nv : Nv) : (writeLands h nv).settings = nv.settings
    ∨ ∃ n v o, h = .working (.setting n v o) ∧ (writeLands h nv).settings = nv.settings.set n v := by
  unfold writeLands
  split
  · next n v o => exact .inr ⟨n, v, o, rfl, rfl⟩
  · exact .inl rfl
  · exact .inl rfl

theorem settingsLegal_writeLands {s : State} {nv : Nv} (h : SettingsInRange s) (he : nv.settings = s.nv.settings) :
    SettingsLegal (writeLands s.handler nv).settings := by
  obtain ⟨hlegal, hrunning⟩ := h
  obtain e | ⟨n, v, o, hw, e⟩ := writeLands_settings s.handler nv
  · rw [e, he]
    exact hlegal
  · rw [e, he]
    exact hrunning n v o hw

theorem settingsInRange_of_legal {s : State} (h : SettingsLegal s.nv.settings) (hl : s.handler.Legal s.nv.settings) :
    SettingsInRange s := ⟨h, fun n v o e => hl n v o e h⟩

theorem settingsInRange_acts {R : Prop} {s t : State} (h : Acts R s t) : SettingsInRange s → SettingsInRange t := by
  induction h with
  | trans _ _ i k => exact fun r => k (i r)
  | blocks h =>
    intro r
    unfold SettingsInRange
    dsimp only
    rw [h.settings]
    exact r
  | outputs h =>
    intro r
    unfold SettingsInRange
    rw [h.nv, h.handler]
    exact r
  | ring => exact id
  | handler x s hl => exact fun r => settingsInRange_of_legal r.1 hl
  | lands s =>
    refine fun r => ⟨settingsLegal_writeLands r rfl, fun n v o e => ?_⟩
    have hw : (writeLands s.handler s.nv).settings = s.nv.settings.set n v := by
      dsimp only at e
      rw [e]
      rfl
    dsimp only
    rw [hw, Settings.set_set]
    exact r.2 n v o e
  | softReset => exact fun r => settingsInRange_of_legal r.1 (Acts.legal_ready _)
  | cold => exact fun r => settingsInRange_of_legal r.1 (Acts.legal_ready _)
  | loss _ cut s =>
    refine fun r => settingsInRange_of_legal ?_ (Acts.legal_ready _)
    have kept : ∀ nv, nv = s.nv ∨ nv = cutSwap cut.swapWritten s → nv.settings = s.nv.settings := by
      rintro nv (rfl | rfl)
      · rfl
      · exact cutSwap_settings ..
    obtain ⟨nv, hnv, e | e⟩ := cutWrites_cases cut s
    · change SettingsLegal (cutWrites cut s).settings
      rw [e, kept nv hnv]
      exact r.1
    · change SettingsLegal (cutWrites cut s).settings
      rw [e]
      exact settingsLegal_writeLands r (kept nv hnv)
  | lines => exact id
  | startUp => exact id

/-! ### Tables (02 R26, R27; 03 R46, R49, R51) -/

/-- What `TablesConsistent` says of the non-volatile state and the blocks. -/
def TablesAgree (nv : Nv) (c : Core) : Prop :=
  (c.ts.valid = true → nv.active.valid = true ∧ nv.generation ≠ 0)
    ∧ (c.ts.compile = .compiling false → nv.inactive.valid = false)
    ∧ (c.ts.compile = .compiling true ∨ c.ts.compile = .swapPending → nv.inactive.valid = true)

theorem tablesConsistent_iff (s : State) : TablesConsistent s ↔ TablesAgree s.nv s.core := Iff.rfl

theorem TablesAgree.congr {nv nv' : Nv} {c d : Core} (hvalid : d.ts.valid = c.ts.valid) (hcompile : d.ts.compile = c.ts.compile)
    (hactive : nv'.active.valid = nv.active.valid) (hinactive : nv'.inactive.valid = nv.inactive.valid)
    (hgeneration : nv'.generation = nv.generation) (h : TablesAgree nv c) : TablesAgree nv' d := by
  unfold TablesAgree
  rw [hvalid, hcompile, hactive, hinactive, hgeneration]
  exact h

/-- With no compile in progress and the table state NONE nothing is claimed. -/
theorem tablesAgree_of_none {nv : Nv} {c : Core} (hvalid : c.ts.valid = false) (hcompile : c.ts.compile = .idle) :
    TablesAgree nv c := by
  unfold TablesAgree
  simp [hvalid, hcompile]

/-- A compile proceeds to its swap with the inactive bank VALID. -/
theorem Written.facts {nv nv' : Nv} {c : Core} (h : Written nv c nv') (r : TablesAgree nv c) :
    nv'.inactive.valid = true ∧ nv'.active = nv.active ∧ nv'.generation = nv.generation := by
  obtain ⟨hcompile, rfl⟩ | ⟨_, rfl⟩ := h
  · exact ⟨r.2.2 hcompile, rfl, rfl⟩
  · exact ⟨congrArg Bank.valid (Nv.inactive_setInactive ..), Nv.active_setInactive .., Nv.setInactive_generation ..⟩

theorem succGeneration_ne_zero (g : Word16) : succGeneration g ≠ 0 := by
  unfold succGeneration
  split
  · decide
  · next h => bv_omega

theorem tablesAgree_runs {nv nv' : Nv} {a c : Core} (h : Runs nv a nv' c) : TablesAgree nv a → TablesAgree nv' c := by
  induction h with
  | trans _ _ i k => exact fun r => k (i r)
  | moves h =>
    obtain ⟨hvalid, _, _, _, _, _, hcompile, _⟩ := h.frame
    exact .congr hvalid hcompile rfl rfl rfl
  | tablesValid nv c hg hb => exact fun r => ⟨fun _ => ⟨hb, hg⟩, r.2⟩
  | beginCompile nv c =>
    intro r
    refine ⟨fun hv => ?_, fun _ => congrArg Bank.valid (Nv.inactive_setInactive ..), fun h => by simp at h⟩
    rw [Nv.active_setInactive, Nv.setInactive_generation]
    exact r.1 hv
  | endCompile r nv c => exact fun r => ⟨r.1, fun h => by simp [compileEnds] at h, fun h => by simp [compileEnds] at h⟩
  | written nv c hc =>
    intro r
    refine ⟨fun hv => ?_, fun h => by simp at h, fun _ => congrArg Bank.valid (Nv.inactive_setInactive ..)⟩
    rw [Nv.active_setInactive, Nv.setInactive_generation]
    exact r.1 hv
  | pend nv nv' c hw =>
    intro r
    obtain ⟨hinactive, hactive, hgeneration⟩ := hw.facts r
    refine ⟨fun hv => ?_, fun h => by simp at h, fun _ => hinactive⟩
    rw [hactive, hgeneration]
    exact r.1 hv
  | abandon nv nv' c d hw hm =>
    intro r
    obtain ⟨hinactive, hactive, hgeneration⟩ := hw.facts r
    refine ⟨fun hv => ?_, fun h => by simp [compileEnds] at h, fun h => by simp [compileEnds] at h⟩
    rw [hactive, hgeneration]
    exact r.1 (hm.frame.1 ▸ hv)
  | swap nv nv' c d hw hm =>
    intro r
    obtain ⟨hinactive, _, _⟩ := hw.facts r
    refine ⟨fun _ => ⟨?_, succGeneration_ne_zero _⟩, fun h => by simp [adoptBank, compileEnds] at h,
      fun h => by simp [adoptBank, compileEnds] at h⟩
    rw [Nv.swapped_active]
    exact hinactive
  | _ => exact id

theorem writeLands_banks (h : Handler) (nv : Nv) : (writeLands h nv).bankA = nv.bankA ∧ (writeLands h nv).bankB = nv.bankB
    ∧ (writeLands h nv).selector = nv.selector ∧ (writeLands h nv).generation = nv.generation := by
  unfold writeLands
  split <;> exact ⟨rfl, rfl, rfl, rfl⟩

theorem bank_congr {nv nv' : Nv} (ha : nv'.bankA = nv.bankA) (hb : nv'.bankB = nv.bankB) (id : BankId) :
    nv'.bank id = nv.bank id := by
  cases id
  · exact ha
  · exact hb

theorem tablesConsistent_acts {R : Prop} {s t : State} (h : Acts R s t) : TablesConsistent s → TablesConsistent t := by
  simp only [tablesConsistent_iff]
  induction h with
  | trans _ _ i k => exact fun r => k (i r)
  | blocks h => exact tablesAgree_runs h
  | outputs h => exact .congr (by rw [h.ts]) (by rw [h.ts]) (by rw [h.nv]) (by rw [h.nv]) (by rw [h.nv])
  | lands s =>
    obtain ⟨ha, hb, hselector, hgeneration⟩ := writeLands_banks s.handler s.nv
    refine .congr rfl rfl ?_ ?_ hgeneration
    · unfold Nv.active
      rw [hselector, bank_congr ha hb]
    · unfold Nv.inactive
      rw [hselector, bank_congr ha hb]
  | softReset => exact fun _ => tablesAgree_of_none rfl rfl
  | cold => exact fun _ => tablesAgree_of_none rfl rfl
  | loss => exact fun _ => tablesAgree_of_none rfl rfl
  | _ => exact id

/-! ### Values (04 R62, R64; 05 R80; 08 R151) -/

theorem valuesInRange_iff (s : State) : ValuesInRange s ↔ Moves.InRange s.core :=
  ⟨fun ⟨hchannels, hscores, hfaults⟩ => ⟨fun i => (hchannels i).1, fun i => (hchannels i).2, hscores, hfaults⟩,
    fun r => ⟨fun i => ⟨r.baseline i, r.deviation i⟩, r.score, r.faults⟩⟩

theorem inRange_reset (picks : Nat) : Moves.InRange (Core.reset picks) :=
  ⟨fun _ => Nat.zero_le _, fun _ => Nat.zero_le _, fun _ => Nat.zero_le _, fun _ => Nat.zero_le _⟩

/-- Ranges speak of channels, scores and valves alone. -/
theorem inRange_congr {c d : Core} (hwu : d.wu.channels = c.wu.channels) (hlu : d.lu.scores = c.lu.scores)
    (hds : d.ds.valves = c.ds.valves) (r : Moves.InRange c) : Moves.InRange d := by
  refine ⟨fun i => ?_, fun i => ?_, fun g => ?_, fun v => ?_⟩
  · rw [channelOf, hwu]; exact r.baseline i
  · rw [channelOf, hwu]; exact r.deviation i
  · rw [scoreOf, hlu]; exact r.score g
  · rw [valveOf, hds]; exact r.faults v

/-- Where they are the same by computation. -/
theorem Moves.InRange.same {c d : Core} (r : Moves.InRange c) (hwu : d.wu.channels = c.wu.channels := by rfl)
    (hlu : d.lu.scores = c.lu.scores := by rfl) (hds : d.ds.valves = c.ds.valves := by rfl) : Moves.InRange d :=
  inRange_congr hwu hlu hds r

theorem inRange_runs {nv nv' : Nv} {a c : Core} (h : Runs nv a nv' c) : Moves.InRange a → Moves.InRange c := by
  induction h with
  | trans _ _ i k => exact fun r => k (i r)
  | moves h => exact h.inRange
  | forgetScores => exact fun r => ⟨r.baseline, r.deviation, fun _ => Nat.zero_le _, r.faults⟩
  | abandon nv nv' c d hw hm => exact fun r => (hm.inRange r).same
  | swap nv nv' c d hw hm => exact fun r => (hm.inRange r).same
  | _ => exact fun r => r.same

theorem inRange_acts {R : Prop} {s t : State} (h : Acts R s t) : Moves.InRange s.core → Moves.InRange t.core := by
  induction h with
  | trans _ _ i k => exact fun r => k (i r)
  | blocks h => exact inRange_runs h
  | outputs h => exact inRange_congr (by rw [h.wu]) (by rw [h.lu]) h.valves
  | softReset s => exact fun _ => (inRange_reset s.core.ic.picks).same
  | cold _ s => exact fun _ => inRange_reset _
  | loss _ cut s => exact fun _ => inRange_reset _
  | startUp _ s => exact fun r => r.same
  | _ => exact id

theorem inRange_elapse (b : Bool) {c : Core} (r : Moves.InRange c) : Moves.InRange (c.elapse b) := by
  refine ⟨fun i => ?_, fun i => ?_, r.score, r.faults⟩
  · rw [channelOf_elapse]
    exact r.baseline i
  · rw [channelOf_elapse]
    exact r.deviation i

/-! ### Arrays (02 R19-R22; 06 R100) -/

/-- What `ArraysCanonical` says of the non-volatile state. -/
structure NvCanonical (nv : Nv) : Prop where
  tables : ∀ id, TablesCanonical (nv.bank id).tables
  damage : ∀ id, (nv.bank id).damage.wf = true
  persistent : nv.persistent.wf = true

/-- What it says of the blocks. -/
structure CoreCanonical (c : Core) : Prop where
  shadow : TablesCanonical c.ts.shadow
  lastSeq : c.wu.lastSeq.wf = true
  entries : ∀ e ∈ c.ic.table, e.1 < 16
  blocks : Moves.Canonical c

theorem arraysCanonical_iff (s : State) : ArraysCanonical s ↔ NvCanonical s.nv ∧ CoreCanonical s.core := by
  constructor
  · rintro ⟨hA, hB, hshadow, hdA, hdB, hsnapshot, hmap, hdynamic, hchannels, hlastSeq, hscores, hwindows, htable, hentries,
      hvalves, hslots, hpersistent⟩
    refine ⟨⟨fun id => ?_, fun id => ?_, hpersistent⟩, ⟨hshadow, hlastSeq, hentries,
      ⟨hmap, hdynamic, hchannels, hscores, hwindows, htable, hvalves, hslots, hsnapshot⟩⟩⟩
    · cases id
      · exact hA
      · exact hB
    · cases id
      · exact hdA
      · exact hdB
  · rintro ⟨n, c⟩
    exact ⟨n.tables .a, n.tables .b, c.shadow, n.damage .a, n.damage .b, c.blocks.snapshot, c.blocks.map, c.blocks.dynamic,
      c.blocks.channels, c.lastSeq, c.blocks.scores, c.blocks.windows, c.blocks.table, c.entries, c.blocks.valves,
      c.blocks.slots, n.persistent⟩

theorem nvCanonical_congr {nv nv' : Nv} (ha : nv'.bankA = nv.bankA) (hb : nv'.bankB = nv.bankB)
    (hp : nv.persistent.wf = true → nv'.persistent.wf = true) (r : NvCanonical nv) : NvCanonical nv' :=
  ⟨fun id => by rw [bank_congr ha hb]; exact r.tables id, fun id => by rw [bank_congr ha hb]; exact r.damage id,
    hp r.persistent⟩

theorem nvCanonical_setBank {nv : Nv} (r : NvCanonical nv) {b : Bank} (ht : TablesCanonical b.tables)
    (hd : b.damage.wf = true) (id : BankId) : NvCanonical (nv.setBank id b) := by
  refine ⟨fun k => ?_, fun k => ?_, (Nv.setBank_persistent nv id b).symm ▸ r.persistent⟩
  · cases id <;> cases k
    · exact ht
    · exact r.tables .b
    · exact r.tables .a
    · exact ht
  · cases id <;> cases k
    · exact hd
    · exact r.damage .b
    · exact r.damage .a
    · exact hd

/-- Every entry of the incident table that comes into use is one of the 16 (06 R100). -/
theorem Moves.entries {nv : Nv} {a c : Core} (h : Moves nv a c) :
    (∀ e ∈ a.ic.table, e.1 < 16) → ∀ e ∈ c.ic.table, e.1 < 16 := by
  have renamed {t : Sparse Incident} {f : Nat × Incident → Incident} (r : ∀ e ∈ t, e.1 < 16) :
      ∀ e ∈ t.map fun p => (p.1, f p), e.1 < 16 := by
    intro e he
    obtain ⟨p, hp, rfl⟩ := List.mem_map.1 he
    exact r p hp
  induction h with
  | trans _ _ i k => exact fun r => k (i r)
  | notify kind n v g code c =>
    unfold Machine.notify
    split <;> exact id
  | notifyTableError v g code c =>
    unfold Machine.notifyTableError
    dsimp only
    repeat' split
    all_goals exact id
  | eachIncident f hf x y c => exact renamed
  | newIncident e i n x ps c he =>
    intro r
    have hfree : e < 16 := List.mem_range.1 (List.mem_filter.1 he).1
    have kept := Sparse.all_put c.ic.table e i (fun p => decide (p.1 < 16)) (by simpa using r) (by simpa using hfree)
    simpa using kept
  | remove n c => exact fun r e he => r e (List.mem_filter.1 he).1
  | renumber c =>
    unfold renumberOrders
    split
    · exact id
    · exact renamed
  | join n c =>
    unfold joinQueue
    repeat' split
    all_goals exact id
  | _ => exact id

theorem coreCanonical_moves {nv : Nv} {a c : Core} (h : Moves nv a c) (hp : nv.persistent.wf = true) (r : CoreCanonical a) :
    CoreCanonical c := by
  obtain ⟨_, _, _, _, hshadow, _, _, _, hlastSeq, _⟩ := h.frame
  exact ⟨hshadow ▸ r.shadow, hlastSeq ▸ r.lastSeq, h.entries r.entries, h.canonical hp r.blocks⟩

theorem Written.canonical {nv nv' : Nv} {c : Core} (h : Written nv c nv') (rn : NvCanonical nv) (rc : CoreCanonical c) :
    NvCanonical nv' := by
  obtain ⟨_, rfl⟩ | ⟨_, rfl⟩ := h
  · exact rn
  · exact nvCanonical_setBank (b := ⟨c.ts.shadow, [], true⟩) rn rc.shadow rfl _

theorem canonical_runs {nv nv' : Nv} {a c : Core} (h : Runs nv a nv' c) :
    NvCanonical nv ∧ CoreCanonical a → NvCanonical nv' ∧ CoreCanonical c := by
  induction h with
  | trans _ _ i k => exact fun r => k (i r)
  | moves h => exact fun ⟨rn, rc⟩ => ⟨rn, coreCanonical_moves h rn.persistent rc⟩
  | window => exact fun ⟨rn, rc⟩ => ⟨rn, ⟨rc.shadow, rc.lastSeq, rc.entries, { rc.blocks with }⟩⟩
  | shadow t nv c ht =>
    exact fun ⟨rn, rc⟩ => ⟨rn, ⟨ht (rn.tables _) rc.shadow, rc.lastSeq, rc.entries, { rc.blocks with }⟩⟩
  | dynamic m nv c hm =>
    exact fun ⟨rn, rc⟩ => ⟨rn, ⟨rc.shadow, rc.lastSeq, rc.entries, { rc.blocks with dynamic := hm rc.blocks.dynamic }⟩⟩
  | lock => exact fun ⟨rn, rc⟩ => ⟨rn, ⟨rc.shadow, rc.lastSeq, rc.entries, { rc.blocks with }⟩⟩
  | mode => exact fun ⟨rn, rc⟩ => ⟨rn, ⟨rc.shadow, rc.lastSeq, rc.entries, { rc.blocks with }⟩⟩
  | mask => exact fun ⟨rn, rc⟩ => ⟨rn, ⟨rc.shadow, rc.lastSeq, rc.entries, { rc.blocks with }⟩⟩
  | sequence station b nv c =>
    exact fun ⟨rn, rc⟩ => ⟨rn, ⟨rc.shadow, Sparse.wf_put _ _ _ rc.lastSeq, rc.entries, { rc.blocks with }⟩⟩
  | forgetScores =>
    exact fun ⟨rn, rc⟩ => ⟨rn, ⟨rc.shadow, rc.lastSeq, rc.entries, { rc.blocks with scores := rfl }⟩⟩
  | engineIdle =>
    exact fun ⟨rn, rc⟩ => ⟨rn, ⟨rc.shadow, rc.lastSeq, rc.entries, { rc.blocks with snapshot := fun _ _ _ e => by cases e }⟩⟩
  | endCheck => exact fun ⟨rn, rc⟩ => ⟨rn, ⟨rc.shadow, rc.lastSeq, rc.entries, { rc.blocks with }⟩⟩
  | tablesValid => exact fun ⟨rn, rc⟩ => ⟨rn, ⟨rc.shadow, rc.lastSeq, rc.entries, { rc.blocks with }⟩⟩
  | beginCompile nv c =>
    exact fun ⟨rn, rc⟩ => ⟨nvCanonical_setBank (b := { nv.inactive with valid := false }) rn (rn.tables _) (rn.damage _) _,
      ⟨rc.shadow, rc.lastSeq, rc.entries, { rc.blocks with }⟩⟩
  | endCompile => exact fun ⟨rn, rc⟩ => ⟨rn, ⟨rc.shadow, rc.lastSeq, rc.entries, { rc.blocks with }⟩⟩
  | written nv c hc =>
    exact fun ⟨rn, rc⟩ => ⟨nvCanonical_setBank (b := ⟨c.ts.shadow, [], true⟩) rn rc.shadow rfl _,
      ⟨rc.shadow, rc.lastSeq, rc.entries, { rc.blocks with }⟩⟩
  | pend nv nv' c hw =>
    exact fun ⟨rn, rc⟩ => ⟨hw.canonical rn rc, ⟨rc.shadow, rc.lastSeq, rc.entries, { rc.blocks with }⟩⟩
  | abandon nv nv' c d hw hm =>
    rintro ⟨rn, rc⟩
    have rn' := hw.canonical rn rc
    have rd := coreCanonical_moves hm rn'.persistent rc
    exact ⟨rn', ⟨rd.shadow, rd.lastSeq, rd.entries, { rd.blocks with }⟩⟩
  | swap nv nv' c d hw hm =>
    rintro ⟨rn, rc⟩
    have rn' := hw.canonical rn rc
    have rd := coreCanonical_moves hm rn'.persistent rc
    exact ⟨nvCanonical_congr (nv := nv') rfl rfl id rn', ⟨rd.shadow, rd.lastSeq, rd.entries, { rd.blocks with map := rfl }⟩⟩

theorem coreCanonical_reset (picks : Nat) : CoreCanonical (Core.reset picks) :=
  ⟨⟨rfl, rfl, rfl, rfl⟩, rfl, fun _ he => absurd he List.not_mem_nil,
    ⟨rfl, rfl, rfl, rfl, rfl, rfl, rfl, rfl, fun _ _ _ e => by cases e⟩⟩

theorem nvCanonical_writeLands (h : Handler) {nv : Nv} (r : NvCanonical nv) : NvCanonical (writeLands h nv) := by
  obtain ⟨ha, hb, _, _⟩ := writeLands_banks h nv
  refine nvCanonical_congr ha hb (fun hp => ?_) r
  unfold writeLands
  split
  · exact hp
  · exact Runs.wf_holdAfter _ _ hp
  · exact hp

theorem nvCanonical_cutWrites (cut : Cut) {s : State} (rn : NvCanonical s.nv) (rc : CoreCanonical s.core) :
    NvCanonical (cutWrites cut s) := by
  obtain ⟨d, runs⟩ := swapNow_runs s
  have rnow : NvCanonical (swapNow s) := (canonical_runs runs ⟨rn, rc⟩).1
  have rswap : NvCanonical (cutSwap cut.swapWritten s) := by
    obtain e | e | e := cutSwap_cases cut.swapWritten s
    · rw [e]; exact rn
    · rw [e]; exact rnow
    · rw [e]; exact nvCanonical_congr (nv := swapNow s) rfl rfl id rnow
  obtain ⟨nv, hnv, e⟩ := cutWrites_cases cut s
  have r : NvCanonical nv := by
    obtain rfl | rfl := hnv
    · exact rn
    · exact rswap
  obtain e | e := e
  · rw [e]; exact r
  · rw [e]; exact nvCanonical_writeLands _ r

theorem canonical_acts {R : Prop} {s t : State} (h : Acts R s t) :
    NvCanonical s.nv ∧ CoreCanonical s.core → NvCanonical t.nv ∧ CoreCanonical t.core := by
  induction h with
  | trans _ _ i k => exact fun r => k (i r)
  | blocks h => exact canonical_runs h
  | outputs h =>
    rintro ⟨rn, rc⟩
    rw [h.nv]
    refine ⟨rn, ⟨?_, ?_, ?_, ⟨?_, ?_, ?_, ?_, ?_, ?_, ?_, ?_, ?_⟩⟩⟩
    · rw [h.ts]; exact rc.shadow
    · rw [h.wu]; exact rc.lastSeq
    · rw [h.ic]; exact rc.entries
    · rw [h.ts]; exact rc.blocks.map
    · rw [h.ts]; exact rc.blocks.dynamic
    · rw [h.wu]; exact rc.blocks.channels
    · rw [h.lu]; exact rc.blocks.scores
    · rw [h.lu]; exact rc.blocks.windows
    · rw [h.ic]; exact rc.blocks.table
    · rw [h.valves]; exact rc.blocks.valves
    · rw [h.slots]; exact rc.blocks.slots
    · rw [h.ip]; exact rc.blocks.snapshot
  | lands s => exact fun ⟨rn, rc⟩ => ⟨nvCanonical_writeLands _ rn, rc⟩
  | softReset s =>
    have rc := coreCanonical_reset s.core.ic.picks
    exact fun r => ⟨r.1, ⟨rc.shadow, rc.lastSeq, rc.entries, { rc.blocks with }⟩⟩
  | cold _ s => exact fun r => ⟨r.1, coreCanonical_reset _⟩
  | loss _ cut s => exact fun r => ⟨nvCanonical_cutWrites cut r.1 r.2, coreCanonical_reset _⟩
  | startUp _ s => exact fun ⟨rn, rc⟩ => ⟨rn, ⟨rc.shadow, rc.lastSeq, rc.entries, { rc.blocks with }⟩⟩
  | _ => exact id

theorem nvCanonical_wearOut (l : Option (BankId × Place)) {nv : Nv} (r : NvCanonical nv) : NvCanonical (wearOut l nv) := by
  refine ⟨fun id => ?_, fun id => (wearOut_bank l nv id).2.2 (r.damage id), (wearOut_persistent l nv).symm ▸ r.persistent⟩
  rw [(wearOut_bank l nv id).1]
  exact r.tables id

theorem coreCanonical_elapse (b : Bool) {c : Core} (r : CoreCanonical c) : CoreCanonical (c.elapse b) := by
  refine ⟨r.shadow, r.lastSeq, fun e he => ?_, { r.blocks with
    channels := Sparse.wfD_mapValues (fun _ => Channel.elapse_eq_reset) r.blocks.channels
    windows := Sparse.wfD_mapValues (fun _ => Window.elapse_eq_closed) r.blocks.windows
    table := Sparse.wf_mapValues _ r.blocks.table, slots := Sparse.wf_mapValues _ r.blocks.slots }⟩
  obtain ⟨p, hp, rfl⟩ := List.mem_map.1 he
  exact r.entries p hp

end Sys2Proof.Machine

namespace Sys2Proof.Proofs

open Sys2Proof Sys2Proof.Machine Sys2Proof.Claims

/-- Settles O56: a swap and the start-up check make the table state VALID only of a VALID bank, and every update of the compile
state goes with its mark of the inactive bank. -/
theorem tablesStayConsistent : Obligations.TablesStayConsistent :=
  keptByEveryStep_of_acts (fun _ _ h => h)
    (fun _ => TablesAgree.congr rfl rfl (wearOut_active_valid ..) (wearOut_inactive_valid ..) (wearOut_generation ..))
    tablesConsistent_acts

/-- Settles O57: only a write that SET SETTING has checked changes a setting. -/
theorem settingsStayLegal : Obligations.SettingsStayLegal := by
  refine keptByEveryStep_of_acts (fun _ _ h => h) (fun s h => ?millisecond) settingsInRange_acts
  case millisecond =>
    unfold SettingsInRange tick
    dsimp only
    rw [wearOut_settings]
    exact h

/-- Settles O59: every write of an array keeps its canonical form. -/
theorem arraysStayCanonical : Obligations.ArraysStayCanonical := by
  refine keptByEveryStep_of_acts (fun _ _ h => h) (fun s h => ?millisecond) fun acts h => ?command
  case millisecond =>
    obtain ⟨rn, rc⟩ := (arraysCanonical_iff s).1 h
    exact (arraysCanonical_iff _).2 ⟨nvCanonical_wearOut _ rn, coreCanonical_elapse _ rc⟩
  case command => exact (arraysCanonical_iff _).2 (canonical_acts acts ((arraysCanonical_iff _).1 h))

/-- Settles O60: every write of a baseline, a deviation, a score or a fault count stays in its range. -/
theorem valuesStayInRange : Obligations.ValuesStayInRange := by
  refine keptByEveryStep_of_acts (fun _ _ h => h) (fun s h => ?millisecond) fun acts h => ?command
  case millisecond => exact (valuesInRange_iff _).2 (inRange_elapse _ ((valuesInRange_iff s).1 h))
  case command => exact (valuesInRange_iff _).2 (inRange_acts acts ((valuesInRange_iff _).1 h))

end Sys2Proof.Proofs
end

section
/-! The part held in reset (O58): BYPASS keeps both links DOWN, and a part at its reset values answers no command but those of the
supplies and the RESET input. -/

namespace Sys2Proof.Machine

open Sys2Proof.Claims

/-! ### BYPASS (01 R1) -/

/-- While BYPASS is engaged both links are DOWN. -/
def BypassDown (r : Ring) : Prop := r.bypass = true → ∀ p, r.isUp p = false

theorem bypassDown_iff (r : Ring) : BypassDown r ↔ (r.bypass = true → r.isUp .east = false ∧ r.isUp .west = false) := by
  refine imp_congr_right fun _ => ⟨fun h => ⟨h .east, h .west⟩, fun ⟨he, hw⟩ p => ?_⟩
  cases p
  · exact he
  · exact hw

theorem bypassDown_reset : BypassDown Ring.reset := fun _ p => by cases p <;> rfl

theorem bypassDown_acts {R : Prop} {s t : State} (h : Acts R s t) : BypassDown s.ring → BypassDown t.ring := by
  induction h with
  | trans _ _ i k => exact fun r => k (i r)
  | outputs h => exact fun r e p => (h.up p).trans (r (h.bypass ▸ e) p)
  | ring q s hb hu =>
    intro r e p
    refine Bool.eq_false_iff.2 fun hup => ?_
    obtain h | h := hu p hup
    · exact Bool.false_ne_true ((r (hb e) p).symm.trans h)
    · exact Bool.false_ne_true (h.symm.trans e)
  | softReset s =>
    intro r e p
    cases p
    · exact r e .east
    · exact r e .west
  | cold => exact fun _ => bypassDown_reset
  | loss => exact fun _ => bypassDown_reset
  | _ => exact id

/-! ### The part at its reset values (01 R2) -/

/-- Everything volatile is at its value for a power-on or line reset. -/
def AtReset (s : State) : Prop := s.core = cold s.core.ic.picks ∧ s.handler = .ready ∧ s.ring = bypassed

theorem atReset_coldState (s : State) : AtReset (coldState s) := ⟨rfl, rfl, rfl⟩

/-- With its link DOWN and nothing queued no output takes anything. -/
theorem takingRound_atReset {s : State} (hn : s.core.log.notices = []) (hd : ∀ p, s.ring.isUp p = false) :
    takingRound s = s := by
  have discards (p : Port) : discardHead p s = s := if_neg fun h => h.1 hn
  have takes (p : Port) : arbitrate p s = s := if_neg fun h => Bool.false_ne_true ((hd p).symm.trans h.1)
  rw [takingRound, discards, discards, takes, takes]

/-- At the reset values nothing waits to leave the part. -/
theorem settle_atReset {s : State} (h : AtReset s) : settle s = s := by
  obtain ⟨nv, core, handler, ring, lines, fresh, pending⟩ := s
  obtain ⟨hcore, rfl, rfl⟩ := h
  dsimp only at hcore
  rw [hcore]
  have rest := takingRound_atReset (s := ⟨nv, cold core.ic.picks, .ready, bypassed, lines, fresh, pending⟩) rfl
    fun p => by cases p <;> rfl
  have delivered : deliver ⟨nv, cold core.ic.picks, .ready, bypassed, lines, fresh, pending⟩
      = ⟨nv, cold core.ic.picks, .ready, bypassed, lines, fresh, pending⟩ := rfl
  rw [settle, delivered, rest, rest, rest, rest]
  rfl

theorem isUp_atReset {s : State} (h : AtReset s) (p : Port) : s.ring.isUp p = false := by
  rw [h.2.2]
  cases p <;> rfl

theorem requestArrives_down {s : State} {p : Port} (h : s.ring.isUp p = false) (station : Byte) (body : List Byte) :
    requestArrives p station body s = s := if_pos h

theorem frameArrives_down {s : State} {p : Port} (h : s.ring.isUp p = false) (f : List Byte) : frameArrives p f s = s :=
  if_pos h

theorem coreEvent_atReset {s : State} (h : AtReset s) {f : Nv → Core → Core} (hf : f s.nv s.core = s.core) :
    coreEvent f s = s := by
  have clean : s.core.lu.dirty = [] := by rw [h.1]; rfl
  unfold coreEvent
  rw [hf, luUpdate_clean _ _ clean]
  exact settle_atReset h

theorem swapEvent_atReset {s : State} (h : AtReset s) {f : Nv → Core → Nv × Core} (hf : f s.nv s.core = (s.nv, s.core)) :
    swapEvent f s = s := by
  have clean : s.core.lu.dirty = [] := by rw [h.1]; rfl
  unfold swapEvent
  simp only [hf, luUpdate_clean _ _ clean]
  exact settle_atReset h

section
variable (nv : Nv) (picks : Nat)

theorem stalenessExpiry_cold (i : Nat) : stalenessExpiry nv i (cold picks) = cold picks := rfl

theorem windowExpiry_cold (z : Nat) : windowExpiry nv z (cold picks) = cold picks := rfl

theorem confirmationExpiry_cold (n : Nat) : confirmationExpiry n (cold picks) = cold picks := rfl

theorem responseExpiry_cold (k : Nat) : responseExpiry nv k (cold picks) = cold picks := rfl

theorem strokeExpiry_cold (k : Nat) : strokeExpiry nv k (cold picks) = cold picks := rfl

theorem compileErrorEnd_cold (w : Option Unwritten) : compileErrorEnd w (cold picks) = cold picks := rfl

theorem compileWriteDone_cold : compileWriteDone nv (cold picks) = (nv, cold picks) := by
  unfold compileWriteDone
  exact if_neg fun h => by cases h.1

theorem planCompletion_cold : planCompletion nv (cold picks) = (nv, cold picks) := rfl

end

/-- At the reset values every other command changes nothing. -/
theorem exec_atReset {s : State} (h : AtReset s) {i : Instr} (hi : Instr.isReset i = false) : exec i s = .next s := by
  have rest := settle_atReset h
  have down := isUp_atReset h
  have arrives (p : Port) (station : Byte) (body : List Byte) : settle (requestArrives p station body s) = s := by
    rw [requestArrives_down (down p), rest]
  obtain ⟨hcore, hhandler, hring⟩ := h
  have event {f : Nv → Core → Core} (hf : ∀ nv k, f nv (cold k) = cold k) : coreEvent f s = s :=
    coreEvent_atReset ⟨hcore, hhandler, hring⟩ (by rw [hcore]; exact hf ..)
  have swap {f : Nv → Core → Nv × Core} (hf : ∀ nv k, f nv (cold k) = (nv, cold k)) : swapEvent f s = s :=
    swapEvent_atReset ⟨hcore, hhandler, hring⟩ (by rw [hcore]; exact hf ..)
  have checking : s.core.ts.checking = false := by rw [hcore]; rfl
  have idle (p : Port) : (s.ring.port p).output = .idle := by rw [hring]; cases p <;> rfl
  cases i <;> refine congrArg Host.Outcome.next ?_
  case startUpCheckComplete => exact if_neg (by simp [checking])
  case linkUp p => rw [linkComesUp, if_pos (.inl (by rw [hring]; rfl)), rest]
  case linkDown p => rw [linkGoesDown, if_neg (by simp [down]), rest]
  case frameArrival p f => rw [frameArrives_down (down p), rest]
  case transmitCompletion p => rw [transmissionEnds, idle p, rest]
  case softResetTakesPlace => exact if_neg (by simp [hhandler])
  case requestUnknownKind p station body => exact arrives ..
  case settingWriteDone => rw [settingWritten, hhandler, rest]
  case persistentHoldWriteDone => rw [holdWritten, hhandler, rest]
  case copyActiveDone => rw [copyDone, hhandler, rest]
  case compileErrorEnd w => exact event fun _ k => compileErrorEnd_cold k w
  case compileWriteDone => exact swap compileWriteDone_cold
  case stalenessExpiry i => exact event fun nv k => stalenessExpiry_cold nv k i
  case windowExpiry z => exact event fun nv k => windowExpiry_cold nv k z
  case confirmationExpiry n => exact event fun _ k => confirmationExpiry_cold k n
  case planCompletion => exact swap planCompletion_cold
  case responseTimerExpiry k => exact event fun nv n => responseExpiry_cold nv n k
  case strokeTimerExpiry k => exact event fun nv n => strokeExpiry_cold nv n k
  case powerOn | lineReset | resetRelease | powerLoss => cases hi
  all_goals exact arrives ..

/-- While the part is without supplies or held in reset everything volatile is at its reset value. -/
def HeldAtReset (s : State) : Prop := s.lines.supplies = false ∨ s.lines.resetLow = true → AtReset s

theorem resetHoldsEverything_iff (s : State) : ResetHoldsEverything s ↔ BypassDown s.ring ∧ HeldAtReset s :=
  and_congr_left' (bypassDown_iff s.ring).symm

/-- Where start-up does not begin the part stays as it is. -/
theorem heldAtReset_startIfReady {s : State} (h : HeldAtReset s) : HeldAtReset (startIfReady s) := by
  unfold startIfReady
  split
  · next hready =>
    obtain ⟨hsupplies, hreset⟩ := hready
    rintro (e | e)
    · exact absurd (hsupplies.symm.trans e) Bool.noConfusion
    · exact absurd (hreset.symm.trans e) Bool.noConfusion
  · exact h

theorem heldAtReset_exec (i : Instr) (s t : State) (he : exec i s = .next t) (h : HeldAtReset s) : HeldAtReset t := by
  have other (hi : Instr.isReset i = false) : HeldAtReset t := by
    obtain ⟨u, hu, acts⟩ := exec_acts i s
    rw [he] at hu
    cases hu
    simp only [hi, Bool.false_eq_true] at acts
    intro hl
    rw [acts.lines_eq] at hl
    rw [exec_atReset (h hl) hi] at he
    cases he
    exact h hl
  cases i
  case powerOn =>
    cases he
    exact heldAtReset_startIfReady fun _ => atReset_coldState _
  case lineReset cut =>
    cases he
    unfold lineReset
    split
    · exact fun _ => atReset_coldState _
    · next hs => exact fun _ => h (.inl (by simpa using hs))
  case resetRelease =>
    cases he
    unfold resetRelease
    split
    · next hr => exact heldAtReset_startIfReady fun _ => h (.inr hr)
    · exact h
  case powerLoss cut =>
    cases he
    unfold powerLoss
    split
    · exact fun _ => atReset_coldState _
    · exact h
  all_goals exact other rfl

theorem heldAtReset_tick {s : State} (h : HeldAtReset s) : HeldAtReset (tick s) := by
  intro hl
  obtain ⟨hcore, hhandler, hring⟩ := h hl
  have stopped : (s.lines.supplies && !s.lines.resetLow) = false := by
    obtain e | e := hl
    · exact Bool.and_eq_false_imp.2 fun hs => absurd (hs.symm.trans e) Bool.noConfusion
    · have e : s.lines.resetLow = true := e
      rw [e]
      exact Bool.and_false _
  refine ⟨?_, hhandler, hring⟩
  unfold tick
  dsimp only
  rw [stopped, hcore]
  rfl

end Sys2Proof.Machine

namespace Sys2Proof.Proofs

open Sys2Proof Sys2Proof.Machine Sys2Proof.Claims

/-- Settles O58: no command but the end of the start-up check releases BYPASS, and no link comes up before; the part at its reset
values stays there until the supplies are in range and RESET is high. -/
theorem resetHoldsThePart : Obligations.ResetHoldsThePart := by
  refine keptByEveryStep_of (fun _ _ h => h) (fun s h => ?millisecond) fun i s t he h => ?command
  case millisecond =>
    obtain ⟨hbypass, hheld⟩ := (resetHoldsEverything_iff s).1 h
    exact (resetHoldsEverything_iff _).2 ⟨hbypass, heldAtReset_tick hheld⟩
  case command =>
    obtain ⟨hbypass, hheld⟩ := (resetHoldsEverything_iff s).1 h
    obtain ⟨u, hu, acts⟩ := exec_acts i s
    rw [hu] at he
    cases he
    exact (resetHoldsEverything_iff _).2 ⟨bypassDown_acts acts hbypass, heldAtReset_exec i s _ hu hheld⟩

end Sys2Proof.Proofs
end

section
/-! The queues keep within their capacities (O55): the notice queue and the plan queue along the updates of `Acts`, the answers,
buffers and drive copies of the ring along the operations of ports and handler, and the seam at the end of every event. -/

namespace Sys2Proof.Machine

open Sys2Proof.Claims

/-! ### The notice queue and the plan queue (09 R185; 07 R128, R129) -/

/-- The queues of the blocks keep within their capacities. -/
structure BlocksBounded (c : Core) : Prop where
  notices : c.log.notices.length ≤ 32
  queue : Moves.QueueLive c

/-- Where notices, plan queue and incidents are the same by computation. -/
theorem BlocksBounded.same {c d : Core} (r : BlocksBounded c) (hn : d.log.notices = c.log.notices := by rfl)
    (hq : d.ip.queue = c.ip.queue := by rfl) (ht : d.ic.table = c.ic.table := by rfl) : BlocksBounded d := by
  refine ⟨hn ▸ r.notices, hq ▸ r.queue.nodup, fun o ho => ?_⟩
  rw [hq] at ho
  rw [live, ht]
  exact r.queue.live o ho

theorem blocksBounded_moves {nv : Nv} {a c : Core} (h : Moves nv a c) (r : BlocksBounded a) : BlocksBounded c :=
  ⟨h.notices_length r.notices, h.queueLive r.queue⟩

theorem blocksBounded_runs {nv nv' : Nv} {a c : Core} (h : Runs nv a nv' c) : BlocksBounded a → BlocksBounded c := by
  induction h with
  | trans _ _ i k => exact fun r => k (i r)
  | moves h => exact blocksBounded_moves h
  | abandon nv nv' c d hw hm => exact fun r => (blocksBounded_moves hm r).same
  | swap nv nv' c d hw hm => exact fun r => (blocksBounded_moves hm r).same
  | _ => exact fun r => r.same

theorem blocksBounded_reset (picks : Nat) : BlocksBounded (Core.reset picks) :=
  ⟨Nat.zero_le _, List.nodup_nil, fun _ ho => absurd ho List.not_mem_nil⟩

theorem blocksBounded_acts {R : Prop} {s t : State} (h : Acts R s t) : BlocksBounded s.core → BlocksBounded t.core := by
  induction h with
  | trans _ _ i k => exact fun r => k (i r)
  | blocks h => exact blocksBounded_runs h
  | outputs h =>
    intro r
    obtain ⟨k, hk⟩ := h.notices
    refine ⟨?_, h.ip ▸ r.queue.nodup, fun o ho => ?_⟩
    · rw [hk, List.length_drop]
      exact Nat.le_trans (Nat.sub_le ..) r.notices
    · rw [h.ip] at ho
      rw [live, h.ic]
      exact r.queue.live o ho
  | softReset => exact fun _ => ⟨Nat.le_add_left 1 31, List.nodup_nil, fun _ ho => absurd ho List.not_mem_nil⟩
  | cold => exact fun _ => blocksBounded_reset _
  | loss => exact fun _ => blocksBounded_reset _
  | startUp => exact fun r => ⟨Nat.le_add_left 1 31, r.queue.nodup, r.queue.live⟩
  | _ => exact id

theorem blocksBounded_elapse (b : Bool) {c : Core} (r : BlocksBounded c) : BlocksBounded (c.elapse b) := by
  refine ⟨r.notices, r.queue.nodup, fun o ho => ?_⟩
  obtain ⟨i, hi, rfl⟩ := r.queue.live o ho
  obtain ⟨p, hp, rfl⟩ := List.mem_map.1 hi
  exact ⟨p.2.elapse, List.mem_map.2 ⟨(p.1, p.2.elapse), List.mem_map.2 ⟨p, hp, rfl⟩, rfl⟩, rfl⟩

/-! ### Drive copies (01 R15) -/

/-- At most one copy of a slot's DRIVE waits in a queue. -/
def OneWaiting (xs : List DriveCopy) : Prop := ∀ k, xs.countP (DriveCopy.waitsFor k) ≤ 1

theorem OneWaiting.sublist {xs ys : List DriveCopy} (h : OneWaiting xs) (hs : ys.Sublist xs) : OneWaiting ys :=
  fun k => Nat.le_trans (hs.countP_le) (h k)

/-- A change of every copy that leaves what it waits for. -/
theorem OneWaiting.map {xs : List DriveCopy} (h : OneWaiting xs) {f : DriveCopy → DriveCopy}
    (hf : ∀ k x, (f x).waitsFor k = x.waitsFor k) : OneWaiting (xs.map f) := by
  intro k
  rw [List.countP_map, List.countP_congr (q := DriveCopy.waitsFor k) fun x _ => by rw [Function.comp_apply, hf]]
  exact h k

/-- A DRIVE replaces the copy of its slot that waits, or joins where none does (01 R15). -/
theorem oneWaiting_queueDrive (d : Drive) {xs : List DriveCopy} (h : OneWaiting xs) : OneWaiting (queueDrive d xs) := by
  unfold queueDrive
  split
  · refine h.map fun k x => ?_
    split
    · next hx =>
      simp only [DriveCopy.waitsFor, Bool.and_eq_true, beq_iff_eq, Bool.not_eq_true'] at hx
      simp [DriveCopy.waitsFor, hx]
    · rfl
  · next hnone =>
    intro k
    have none_waits : xs.countP (DriveCopy.waitsFor d.slot) = 0 :=
      List.countP_eq_zero.2 fun x hx hw => hnone (List.any_eq_true.2 ⟨x, hx, hw⟩)
    rw [List.countP_append, List.countP_singleton]
    split
    · next hk =>
      have e : d.slot = k := by simpa [DriveCopy.waitsFor] using hk
      exact Nat.le_of_eq (by rw [← e, none_waits])
    · exact h k

theorem oneWaiting_portOrder (o : DriveOrder) {x : PortState} (h : OneWaiting x.drives) :
    OneWaiting (portOrder o x).drives := by
  unfold portOrder
  split
  · split
    · exact oneWaiting_queueDrive _ h
    · exact h
  · exact h.sublist List.filter_sublist

theorem oneWaiting_noteHeader (slot : Nat) (hd : Header) {x : PortState} (h : OneWaiting x.drives) :
    OneWaiting (noteHeader slot hd x).drives :=
  h.map fun k y => by split <;> rfl

theorem oneWaiting_markDrive {xs : List DriveCopy} (h : OneWaiting xs) : OneWaiting (markDrive xs) := by
  cases xs with
  | nil => exact h
  | cons x xs =>
    intro k
    have marked : DriveCopy.waitsFor k { x with sending := true } = false := by simp [DriveCopy.waitsFor]
    rw [markDrive, List.countP_cons_of_neg (by rw [marked]; exact Bool.false_ne_true)]
    exact (h.sublist (List.sublist_cons_self x xs)) k

/-! ### The requests held (01 R9, 09 R174) -/

theorem takeHeld_eq_none {bs : List Buffered} : takeHeld bs = none ↔ ∀ b ∈ bs.map Buffered.isForward, b = true := by
  induction bs with
  | nil => exact ⟨fun _ _ hb => absurd hb List.not_mem_nil, fun _ => rfl⟩
  | cons b bs ih =>
    obtain ⟨p, held⟩ := b
    cases held with
    | forward f sending =>
      simp only [takeHeld, Option.map_eq_none_iff, ih, List.map_cons, List.forall_mem_cons]
      exact ⟨fun h => ⟨rfl, h⟩, fun h => h.2⟩
    | request station body =>
      simp [takeHeld, Buffered.isForward]

theorem takeHeld_sublist {bs cs : List Buffered} (h : takeHeld bs = none) (hs : cs.Sublist bs) : takeHeld cs = none :=
  takeHeld_eq_none.2 fun b hb => takeHeld_eq_none.1 h b ((hs.map _).subset hb)

/-- The buffers without the oldest held request are one fewer, in their order. -/
theorem takeHeld_rest : ∀ {bs : List Buffered} {q : Port × Byte × List Byte} {rest : List Buffered},
    takeHeld bs = some (q, rest) → rest.Sublist bs ∧ rest.length + 1 = bs.length
  | [], _, _, h => nomatch h
  | ⟨p, .request station body⟩ :: bs, _, _, h => by
    simp only [takeHeld, Option.some.injEq, Prod.mk.injEq] at h
    obtain ⟨_, rfl⟩ := h
    exact ⟨List.sublist_cons_self .., rfl⟩
  | ⟨p, .forward f sending⟩ :: bs, _, _, h => by
    simp only [takeHeld, Option.map_eq_some_iff, Prod.mk.injEq] at h
    obtain ⟨⟨q, rest⟩, hq, rfl, rfl⟩ := h
    obtain ⟨hsub, hlen⟩ := takeHeld_rest hq
    exact ⟨hsub.cons_cons _, congrArg (· + 1) hlen⟩

/-! ### What the outputs' coming to rest leaves of the buffers and of the drive copies -/

/-- The buffers hold what they held, but for marks, and no slot's copies multiply. -/
structure Resting (r q : Ring) : Prop where
  held : q.buffers.map Buffered.isForward = r.buffers.map Buffered.isForward
  copies : (∀ p, OneWaiting (r.port p).drives) → ∀ p, OneWaiting (q.port p).drives

namespace Resting

theorem refl (r : Ring) : Resting r r := ⟨rfl, id⟩

theorem trans {r q u : Ring} (h : Resting r q) (k : Resting q u) : Resting r u :=
  ⟨k.held.trans h.held, fun c => k.copies (h.copies c)⟩

/-- A change of other fields. -/
theorem same {r q : Ring} (hb : q.buffers = r.buffers) (he : q.east = r.east) (hw : q.west = r.west) : Resting r q := by
  refine ⟨by rw [hb], fun c p => ?_⟩
  have hp : q.port p = r.port p := by
    cases p
    · exact he
    · exact hw
  exact hp ▸ c p

theorem setPort (r : Ring) (p : Port) (x : PortState) (hx : OneWaiting (r.port p).drives → OneWaiting x.drives) :
    Resting r (r.setPort p x) := by
  refine ⟨congrArg _ (Ring.setPort_buffers ..), fun c q => ?_⟩
  cases p <;> cases q
  · exact hx (c .east)
  · exact c .west
  · exact c .east
  · exact hx (c .west)

theorem startSending (p : Port) (f : List Byte) (w : Sent) (r : Ring) : Resting r (startSending p f w r) :=
  setPort r p _ id

theorem headerFor (nv : Nv) (d : Byte) (k : Option Header) (r : Ring) : Resting r (headerFor nv d k r).2 := by
  cases k
  · exact same rfl rfl rfl
  · exact refl r

theorem bothPorts {r q : Ring} {f : PortState → PortState} (hb : q.buffers = r.buffers) (he : q.east = f r.east)
    (hw : q.west = f r.west) (hf : ∀ x, OneWaiting x.drives → OneWaiting (f x).drives) : Resting r q := by
  refine ⟨by rw [hb], fun c p => ?_⟩
  cases p
  · exact (congrArg PortState.drives he).symm ▸ hf _ (c .east)
  · exact (congrArg PortState.drives hw).symm ▸ hf _ (c .west)

theorem sendDrive (nv : Nv) (p : Port) (x : DriveCopy) (r : Ring) : Resting r (sendDrive nv p x r) := by
  unfold Machine.sendDrive
  dsimp only
  have header := headerFor nv (BitVec.ofNat 8 x.drive.station) x.header r
  generalize (Machine.headerFor nv (BitVec.ofNat 8 x.drive.station) x.header r).2 = q at header ⊢
  generalize (Machine.headerFor nv (BitVec.ofNat 8 x.drive.station) x.header r).1 = hd
  have noted : Resting q { q with east := noteHeader x.drive.slot hd q.east, west := noteHeader x.drive.slot hd q.west } :=
    bothPorts rfl rfl rfl fun _ => oneWaiting_noteHeader _ _
  exact ((header.trans noted).trans (setPort _ p _ oneWaiting_markDrive)).trans (startSending ..)

theorem sendAnswer (nv : Nv) (p : Port) (a : Answer) (r : Ring) : Resting r (sendAnswer nv p a r) :=
  trans (q := { (newHeader nv a.origin.station r).2 with answers := markAnswer p (newHeader nv a.origin.station r).2.answers })
    (same rfl rfl rfl) (startSending ..)

theorem sendNotice (nv : Nv) (p : Port) (n : Notice) (r : Ring) : Resting r (sendNotice nv p n r) := by
  unfold Machine.sendNotice
  dsimp only
  have header := headerFor nv (BitVec.ofNat 8 nv.settings.primary) r.head.header r
  generalize (Machine.headerFor nv (BitVec.ofNat 8 nv.settings.primary) r.head.header r).2 = q at header ⊢
  generalize (Machine.headerFor nv (BitVec.ofNat 8 nv.settings.primary) r.head.header r).1 = hd
  have taken : Resting q { q with head := { q.head.take p with header := some hd } } := same rfl rfl rfl
  exact (header.trans taken).trans (startSending ..)

theorem markForward (p : Port) : ∀ bs : List Buffered,
    (Machine.markForward p bs).map Buffered.isForward = bs.map Buffered.isForward
  | [] => rfl
  | ⟨q, held⟩ :: bs => by
    unfold Machine.markForward
    split
    · next f hf =>
      cases held with
      | forward g sending => rfl
      | request station body => cases hf
    · rw [List.map_cons, List.map_cons, markForward p bs]

theorem driveOrders : ∀ (os : List DriveOrder) (r : Ring), Resting r (os.foldl driveOrder r)
  | [], r => refl r
  | o :: os, r => (bothPorts (r := r) (q := driveOrder r o) (f := portOrder o) rfl rfl rfl fun _ => oneWaiting_portOrder o).trans (driveOrders os _)

theorem popHead (s : State) : Resting s.ring (popHead s).ring := by
  unfold Machine.popHead
  split
  · exact same rfl rfl rfl
  · exact refl _

theorem discardHead (p : Port) (s : State) : Resting s.ring (discardHead p s).ring := by
  unfold Machine.discardHead
  split
  · exact trans (q := { s.ring with head := s.ring.head.take p }) (same rfl rfl rfl)
      (popHead { s with ring := { s.ring with head := s.ring.head.take p } })
  · exact refl _

theorem arbitrate (p : Port) (s : State) : Resting s.ring (arbitrate p s).ring := by
  unfold Machine.arbitrate
  dsimp only
  split
  · split
    · exact sendDrive ..
    · have marked : Resting s.ring { s.ring with buffers := Machine.markForward p s.ring.buffers } :=
        ⟨markForward p _, fun c q => by
          cases q
          · exact c .east
          · exact c .west⟩
      exact marked.trans (startSending ..)
    · exact sendAnswer ..
    · split
      · exact refl _
      · exact (sendNotice s.nv p _ s.ring).trans (popHead { s with ring := Machine.sendNotice s.nv p _ s.ring })
    · exact refl _
  · exact refl _

theorem takingRound (s : State) : Resting s.ring (takingRound s).ring :=
  ((discardHead .east s).trans (discardHead .west _)).trans ((arbitrate .east _).trans (arbitrate .west _))

theorem settle (s : State) : Resting s.ring (settle s).ring :=
  (driveOrders s.core.ds.outbox s.ring).trans
    (((takingRound (deliver s)).trans (takingRound _)).trans ((takingRound _).trans (takingRound _)))

end Resting

/-! ### The ring within its capacities (01 R6, R15, R16) -/

/-- Answers, buffers and drive copies keep within their capacities. -/
structure RingBounded (r : Ring) : Prop where
  answers : r.answers.length ≤ 4
  occupied : ∀ p, r.occupied p ≤ 2
  copies : ∀ p, OneWaiting (r.port p).drives

/-- A READY handler leaves no request held (09 R174). -/
def NoneHeld (s : State) : Prop := s.handler = .ready → takeHeld s.ring.buffers = none

/-- Both, of the handler and the ring. -/
structure PortsBounded (s : State) : Prop where
  ring : RingBounded s.ring
  held : NoneHeld s

theorem port_eq {r q : Ring} (he : q.east = r.east) (hw : q.west = r.west) (p : Port) : q.port p = r.port p := by
  cases p
  · exact he
  · exact hw

theorem occupied_sublist {r q : Ring} (h : q.buffers.Sublist r.buffers) (p : Port) : q.occupied p ≤ r.occupied p :=
  (h.filter _).length_le

/-- Fewer answers and buffers, the same ports. -/
theorem RingBounded.fewer {r q : Ring} (h : RingBounded r) (ha : q.answers.length ≤ 4) (hb : q.buffers.Sublist r.buffers)
    (he : q.east = r.east := by rfl) (hw : q.west = r.west := by rfl) : RingBounded q :=
  ⟨ha, fun p => Nat.le_trans (occupied_sublist hb p) (h.occupied p), fun p => port_eq he hw p ▸ h.copies p⟩

theorem occupied_eq_count (r : Ring) (p : Port) : r.occupied p = (r.buffers.map Buffered.port).count p := by
  unfold Ring.occupied
  rw [← List.countP_eq_length_filter, List.count_eq_countP, List.countP_map]
  rfl

theorem ringBounded_settle {s : State} (h : RingBounded s.ring) : RingBounded (settle s).ring := by
  have only := settle_only s
  refine ⟨?_, fun p => ?_, (Resting.settle s).copies h.copies⟩
  · have length := congrArg List.length only.answers
    rw [List.length_map, List.length_map] at length
    rw [length]
    exact h.answers
  · rw [occupied_eq_count, only.buffers, ← occupied_eq_count]
    exact h.occupied p

theorem portsBounded_settle {s : State} (h : PortsBounded s) : PortsBounded (settle s) := by
  refine ⟨ringBounded_settle h.ring, fun hready => ?_⟩
  rw [(settle_only s).handler] at hready
  rw [takeHeld_eq_none, (Resting.settle s).held, ← takeHeld_eq_none]
  exact h.held hready

/-! ### The handler (09 R174) -/

theorem portsBounded_softReset {s : State} (h : RingBounded s.ring) : PortsBounded (softReset s) := by
  refine ⟨⟨Nat.zero_le _, fun p => ?_, fun p k => ?_⟩, fun _ => takeHeld_filter _⟩
  · exact Nat.le_trans (occupied_sublist (r := s.ring) List.filter_sublist p) (h.occupied p)
  · cases p <;> exact Nat.zero_le _

theorem ringBounded_joinAnswers {a : Answer} {s : State} (h : RingBounded s.ring) (hroom : s.ring.answers.length < 4) :
    RingBounded (joinAnswers a s).ring := by
  unfold joinAnswers
  split
  · refine h.fewer ?_ (List.Sublist.refl _)
    rw [List.length_append]
    exact hroom
  · split
    · exact (portsBounded_softReset h).ring
    · exact h

theorem ringBounded_handAnswer (a : Answer) {s : State} (h : RingBounded s.ring) : RingBounded (handAnswer a s).ring := by
  unfold handAnswer
  split
  · next hroom => exact ringBounded_joinAnswers h hroom
  · exact h

theorem ringBounded_handReply (o : Origin) (r : Reply) {s : State} (h : RingBounded s.ring) :
    RingBounded (handReply o r s).ring := by
  unfold handReply
  split
  · exact ringBounded_handAnswer _ h
  · exact h
  · exact ringBounded_handAnswer _ h

theorem buffers_joinAnswers (a : Answer) (s : State) : (joinAnswers a s).ring.buffers.length ≤ s.ring.buffers.length := by
  unfold joinAnswers
  split
  · exact Nat.le_refl _
  · split
    · exact List.length_filter_le ..
    · exact Nat.le_refl _

theorem buffers_handAnswer (a : Answer) (s : State) : (handAnswer a s).ring.buffers.length ≤ s.ring.buffers.length := by
  unfold handAnswer
  split
  · exact buffers_joinAnswers a s
  · exact Nat.le_refl _

theorem buffers_handReply (o : Origin) (r : Reply) (s : State) :
    (handReply o r s).ring.buffers.length ≤ s.ring.buffers.length := by
  unfold handReply
  split
  · exact buffers_handAnswer ..
  · exact Nat.le_refl _
  · exact buffers_handAnswer ..

/-- With a round for each buffer no request stays held by a READY handler. -/
theorem portsBounded_takeRequests : ∀ (n : Nat) {s : State}, RingBounded s.ring → s.ring.buffers.length ≤ n →
    PortsBounded (takeRequests n s)
  | 0, s, h, hn => by
    refine ⟨h, fun _ => ?_⟩
    rw [takeRequests, List.length_eq_zero_iff.1 (Nat.le_zero.1 hn)]
    rfl
  | n + 1, s, h, hn => by
    unfold takeRequests
    split
    · next p station body rest _ htake =>
      obtain ⟨hsub, hlen⟩ := takeHeld_rest htake
      refine portsBounded_takeRequests n ?_ ?_
      · exact ringBounded_handReply _ _ (s := { s with nv := _, core := _, ring := { s.ring with buffers := rest } })
          (h.fewer h.answers hsub)
      · refine Nat.le_trans (buffers_handReply ..) ?_
        dsimp only
        omega
    · next hstop =>
      refine ⟨h, fun hready => ?_⟩
      cases htake : takeHeld s.ring.buffers with
      | none => rfl
      | some x => exact (hstop x.1.1 x.1.2.1 x.1.2.2 x.2 hready htake).elim

theorem portsBounded_serve {s : State} (h : RingBounded s.ring) : PortsBounded (serve s) :=
  portsBounded_takeRequests _ h (Nat.le_refl _)

theorem portsBounded_answerLeft (b : Bool) {s : State} (h : PortsBounded s) : PortsBounded (answerLeft b s) := by
  unfold answerLeft
  split
  · exact portsBounded_softReset h.ring
  · split
    · split
      · next hroom => exact portsBounded_serve (ringBounded_joinAnswers h.ring hroom)
      · exact h
    · exact h

theorem portsBounded_settingWritten {s : State} (h : PortsBounded s) : PortsBounded (settingWritten s) := by
  unfold settingWritten
  split
  · next n v o _ =>
    refine portsBounded_serve (ringBounded_handAnswer _ ?_)
    have same : RingBounded (retire s.nv n s.ring) := by
      unfold retire
      split
      · exact h.ring.fewer h.ring.answers (List.Sublist.refl _)
      · exact h.ring
    exact same
  · exact h

theorem portsBounded_holdWritten {s : State} (h : PortsBounded s) : PortsBounded (holdWritten s) := by
  unfold holdWritten
  split
  · exact portsBounded_serve (ringBounded_handAnswer _ h.ring)
  · exact h

theorem portsBounded_copyDone {s : State} (h : PortsBounded s) : PortsBounded (copyDone s) := by
  unfold copyDone
  split
  · exact portsBounded_serve (ringBounded_handAnswer _ h.ring)
  · exact h

/-! ### Arrivals, transmissions and links (01 R1, R6-R18) -/

theorem ringBounded_hold {r : Ring} {p : Port} (h : RingBounded r) (hroom : ¬ 2 ≤ r.occupied p) (x : Held) :
    RingBounded (r.hold p x) := by
  refine ⟨h.answers, fun q => ?_, h.copies⟩
  have more : (r.hold p x).occupied q = r.occupied q + (if p = q then 1 else 0) := by
    unfold Ring.hold Ring.occupied
    rw [List.filter_append, List.length_append]
    congr 1
    cases p <;> cases q <;> rfl
  rw [more]
  split
  · next e =>
    subst e
    omega
  · exact h.occupied q

theorem portsBounded_consumeRequest {p : Port} {station : Byte} {body : List Byte} {s : State} (h : PortsBounded s)
    (hroom : ¬ 2 ≤ s.ring.occupied p) : PortsBounded (consumeRequest p station body s) := by
  unfold consumeRequest
  split
  · exact portsBounded_serve (ringBounded_hold h.ring hroom _)
  · exact ⟨h.ring.fewer h.ring.answers (List.Sublist.refl _), h.held⟩

theorem portsBounded_forward {p : Port} {f : List Byte} {s : State} (h : PortsBounded s)
    (hroom : ¬ 2 ≤ s.ring.occupied p) : PortsBounded (forward p f s) := by
  unfold forward
  split
  · refine ⟨ringBounded_hold h.ring hroom _, fun hready => ?_⟩
    have none_held := takeHeld_eq_none.1 (h.held hready)
    refine takeHeld_eq_none.2 fun b hb => ?_
    rw [Ring.hold, List.map_append, List.mem_append, List.map_singleton, List.mem_singleton] at hb
    obtain hb | rfl := hb
    · exact none_held b hb
    · rfl
  · exact h

theorem portsBounded_snoop (f : List Byte) {s : State} (h : PortsBounded s) : PortsBounded (snoop f s) := by
  have bad : PortsBounded (countBad s) := ⟨h.ring.fewer h.ring.answers (List.Sublist.refl _), h.held⟩
  unfold snoop
  split
  · unfold snoopSample
    split
    · exact ⟨h.ring, h.held⟩
    · exact bad
  · split
    · unfold snoopPosition
      split
      · exact ⟨h.ring, h.held⟩
      · exact bad
    · exact h

theorem portsBounded_frameArrives (p : Port) (f : List Byte) {s : State} (h : PortsBounded s) :
    PortsBounded (frameArrives p f s) := by
  unfold frameArrives
  split
  · exact h
  · split
    · exact ⟨h.ring.fewer h.ring.answers (List.Sublist.refl _), h.held⟩
    · next hroom =>
      split
      · unfold takeFrame
        split
        · exact h
        · split
          · split
            · exact portsBounded_consumeRequest h hroom
            · exact h
          · exact portsBounded_snoop f (portsBounded_forward h hroom)
      · exact ⟨h.ring.fewer h.ring.answers (List.Sublist.refl _), h.held⟩

theorem portsBounded_requestArrives (p : Port) (station : Byte) (body : List Byte) {s : State} (h : PortsBounded s) :
    PortsBounded (requestArrives p station body s) := by
  unfold requestArrives
  split
  · exact h
  · split
    · exact ⟨h.ring.fewer h.ring.answers (List.Sublist.refl _), h.held⟩
    · next hroom =>
      split
      · exact h
      · exact portsBounded_consumeRequest h hroom

theorem portsBounded_setPort {s : State} (h : PortsBounded s) (p : Port) (x : PortState)
    (hx : OneWaiting (s.ring.port p).drives → OneWaiting x.drives) :
    PortsBounded { s with ring := s.ring.setPort p x } := by
  refine ⟨⟨?_, fun q => ?_, (Resting.setPort s.ring p x hx).copies h.ring.copies⟩, fun hready => ?_⟩
  · exact Nat.le_trans (Nat.le_of_eq (congrArg List.length (Ring.setPort_answers ..))) h.ring.answers
  · rw [Ring.occupied, Ring.setPort_buffers]
    exact h.ring.occupied q
  · exact (congrArg takeHeld (Ring.setPort_buffers ..)).trans (h.held hready)

theorem dropForward_sublist (p : Port) : ∀ bs : List Buffered, (dropForward p bs).Sublist bs
  | [] => List.Sublist.refl _
  | ⟨q, held⟩ :: bs => by
    unfold dropForward
    split
    · split
      · exact List.sublist_cons_self ..
      · exact (dropForward_sublist p bs).cons_cons _
    · exact (dropForward_sublist p bs).cons_cons _

theorem portsBounded_transmissionEnds (p : Port) {s : State} (h : PortsBounded s) :
    PortsBounded (transmissionEnds p s) := by
  unfold transmissionEnds
  split
  · exact h
  · next frame what _ =>
    have idle : PortsBounded { s with ring := idleOutput p s.ring } := portsBounded_setPort h p _ id
    generalize ({ s with ring := idleOutput p s.ring } : State) = t at idle
    unfold releaseSent
    split
    · have sub := dropForward_sublist p t.ring.buffers
      exact ⟨idle.ring.fewer idle.ring.answers sub, fun hready => takeHeld_sublist (idle.held hready) sub⟩
    · exact portsBounded_setPort idle p _ fun c => c.sublist List.filter_sublist
    · have left : PortsBounded { t with ring := { t.ring with answers := t.ring.answers.filter fun a => !a.sentAt p } } :=
        ⟨idle.ring.fewer (Nat.le_trans (List.length_filter_le ..) idle.ring.answers) (List.Sublist.refl _), idle.held⟩
      dsimp only
      split
      · exact left
      · exact portsBounded_answerLeft _ left
    · exact idle

theorem portsBounded_linkComesUp (p : Port) {s : State} (h : PortsBounded s) : PortsBounded (linkComesUp p s) := by
  unfold linkComesUp
  split
  · exact h
  · exact portsBounded_setPort h p _ id

theorem length_rebind (p : Port) (b : Bool) (as : List Answer) : (rebind p b as).length ≤ as.length := by
  unfold rebind
  rw [List.length_map]
  exact List.length_filter_le ..

theorem portsBounded_linkGoesDown (p : Port) {s : State} (h : PortsBounded s) : PortsBounded (linkGoesDown p s) := by
  unfold linkGoesDown
  split
  · have down := portsBounded_setPort h p ⟨false, .idle, []⟩ fun _ _ => Nat.zero_le _
    have freed : PortsBounded { s with ring := { s.ring.setPort p ⟨false, .idle, []⟩ with
        buffers := s.ring.buffers.filter fun b => !b.isFor p
        answers := rebind p (s.ring.isUp p.other) s.ring.answers } } := by
      refine ⟨down.ring.fewer (Nat.le_trans (length_rebind ..) h.ring.answers) ?_, fun hready => ?_⟩
      · dsimp only
        rw [Ring.setPort_buffers]
        exact List.filter_sublist
      · exact takeHeld_sublist (h.held hready) List.filter_sublist
    dsimp only
    split
    · exact freed
    · exact portsBounded_answerLeft _ freed
  · exact h

theorem portsBounded_reset (nv : Nv) (core : Core) (lines : Lines) (fresh : Nat) (pending : List Instr) :
    PortsBounded ⟨nv, core, .ready, .reset, lines, fresh, pending⟩ :=
  ⟨⟨Nat.zero_le _, fun _ => Nat.zero_le _, fun p _ => by cases p <;> exact Nat.zero_le _⟩, fun _ => rfl⟩

/-! ### The end of an event (09 R185; log 15) -/

/-- What holds between events of the ports, and of the seam (09 R185; log 15). -/
structure Between (s : State) : Prop where
  ports : PortsBounded s
  seam : s.core.log.seam = s.core.log.notices.length

theorem between_settle {s : State} (h : PortsBounded s) : Between (settle s) := ⟨portsBounded_settle h, rfl⟩

theorem between_coreEvent {s : State} (h : PortsBounded s) (f : Nv → Core → Core) : Between (coreEvent f s) :=
  between_settle ⟨h.ring, h.held⟩

theorem between_swapEvent {s : State} (h : PortsBounded s) (f : Nv → Core → Nv × Core) : Between (swapEvent f s) :=
  between_settle ⟨h.ring, h.held⟩

theorem between_startIfReady {s : State} (h : Between s) : Between (startIfReady s) := by
  unfold startIfReady
  split
  · exact ⟨⟨h.ports.ring, h.ports.held⟩, rfl⟩
  · exact h

theorem between_coldState (s : State) : Between (coldState s) := ⟨portsBounded_reset .., rfl⟩

theorem between_exec (i : Instr) (s t : State) (he : exec i s = .next t) (h : Between s) : Between t := by
  obtain ⟨ports, seam⟩ := h
  cases i <;> cases he
  case powerOn.refl => exact between_startIfReady (between_coldState _)
  case lineReset.refl cut =>
    unfold lineReset
    split
    · exact between_coldState _
    · exact ⟨⟨ports.ring, ports.held⟩, seam⟩
  case resetRelease.refl =>
    unfold resetRelease
    split
    · exact between_startIfReady ⟨⟨ports.ring, ports.held⟩, seam⟩
    · exact ⟨ports, seam⟩
  case powerLoss.refl cut =>
    unfold powerLoss
    split
    · exact between_coldState _
    · exact ⟨ports, seam⟩
  case startUpCheckComplete.refl ps =>
    unfold startUpComplete
    split
    · exact between_swapEvent (s := { s with ring := { s.ring with bypass := false } })
        ⟨ports.ring.fewer ports.ring.answers (List.Sublist.refl _), ports.held⟩ _
    · exact ⟨ports, seam⟩
  case softResetTakesPlace.refl =>
    unfold softResetTakesPlace
    split
    · split
      · exact between_settle (portsBounded_transmissionEnds _ ports)
      · exact ⟨ports, seam⟩
    · exact ⟨ports, seam⟩
  case linkUp.refl p => exact between_settle (portsBounded_linkComesUp p ports)
  case linkDown.refl p => exact between_settle (portsBounded_linkGoesDown p ports)
  case frameArrival.refl p f => exact between_settle (portsBounded_frameArrives p f ports)
  case transmitCompletion.refl p => exact between_settle (portsBounded_transmissionEnds p ports)
  case settingWriteDone.refl => exact between_settle (portsBounded_settingWritten ports)
  case persistentHoldWriteDone.refl => exact between_settle (portsBounded_holdWritten ports)
  case copyActiveDone.refl => exact between_settle (portsBounded_copyDone ports)
  case compileErrorEnd.refl | stalenessExpiry.refl | windowExpiry.refl | confirmationExpiry.refl | responseTimerExpiry.refl
    | strokeTimerExpiry.refl => exact between_coreEvent ports _
  case compileWriteDone.refl | planCompletion.refl => exact between_swapEvent ports _
  all_goals exact between_settle (portsBounded_requestArrives _ _ _ ports)

theorem queuesBounded_iff (s : State) : QueuesBounded s ↔ Between s ∧ BlocksBounded s.core := by
  have copies : (∀ p, OneWaiting (s.ring.port p).drives) ↔
      ∀ p k, ((s.ring.port p).drives.filter fun x => x.drive.slot == k && !x.sending).length ≤ 1 := by
    simp only [OneWaiting, List.countP_eq_length_filter]
    rfl
  constructor
  · rintro ⟨hnotices, hanswers, hoccupied, hheld, hcopies, hnodup, hlive, hseam⟩
    exact ⟨⟨⟨⟨hanswers, hoccupied, copies.2 hcopies⟩, hheld⟩, hseam⟩, hnotices, hnodup, hlive⟩
  · rintro ⟨⟨⟨⟨hanswers, hoccupied, hcopies⟩, hheld⟩, hseam⟩, hnotices, hnodup, hlive⟩
    exact ⟨hnotices, hanswers, hoccupied, hheld, copies.1 hcopies, hnodup, hlive, hseam⟩

end Sys2Proof.Machine

namespace Sys2Proof.Proofs

open Sys2Proof Sys2Proof.Machine Sys2Proof.Claims

/-- Settles O55: the queues of the blocks keep their bounds along the updates of a command, those of the ring along the operations
of ports and handler, and the seam is set where the event ends. -/
theorem queuesStayBounded : Obligations.QueuesStayBounded := by
  refine keptByEveryStep_of (fun _ _ h => h) (fun s h => ?millisecond) fun i s t he h => ?command
  case millisecond =>
    obtain ⟨⟨ports, seam⟩, blocks⟩ := (queuesBounded_iff s).1 h
    exact (queuesBounded_iff _).2 ⟨⟨⟨ports.ring, ports.held⟩, seam⟩, blocksBounded_elapse _ blocks⟩
  case command =>
    obtain ⟨between, blocks⟩ := (queuesBounded_iff s).1 h
    obtain ⟨u, hu, acts⟩ := exec_acts i s
    rw [hu] at he
    cases he
    exact (queuesBounded_iff _).2 ⟨between_exec i s _ hu between, blocksBounded_acts acts blocks⟩

end Sys2Proof.Proofs
end

section
/-! Steps and resets (O1-O4, O6-O8): one millisecond, the machine after reset, start-up, and the writes a reset cuts off. -/

namespace Sys2Proof.Machine

open Sys2Proof.Claims

/-! ### A millisecond, field by field (09 R184; log 2) -/

theorem windowOf_elapse (b : Bool) (z : Nat) (c : Core) : windowOf z (c.elapse b) = (windowOf z c).elapse := by
  simp only [windowOf, Core.elapse, Sparse.atD, Sparse.at?_mapValues]
  cases c.lu.windows.at? z <;> rfl

theorem slotOf_elapse (b : Bool) (k : Nat) (c : Core) : slotOf k (c.elapse b) = (slotOf k c).map Motion.elapse :=
  Sparse.at?_mapValues ..

theorem live_elapse (b : Bool) (c : Core) : live (c.elapse b) = (live c).map Incident.elapse := by
  simp only [live, Core.elapse, List.map_map]
  rfl

theorem keys_mapValues {α β : Type} (f : α → β) (m : Sparse α) : Sparse.keys (m.map fun p => (p.1, f p.2)) = m.keys := by
  simp only [Sparse.keys, List.map_map]
  rfl

/-! ### Writes cut off (02 R26, R36; 03 R57; 09 R180; log 10) -/

/-- The selector word is as it was, or written once, with the generation that follows (02 R26). -/
def SelectorWhole (nv nv' : Nv) : Prop :=
  (nv'.selector = nv.selector ∧ nv'.generation = nv.generation)
    ∨ (nv'.selector = nv.selector.other ∧ nv'.generation = succGeneration nv.generation)

theorem selectorWhole_refl (nv : Nv) : SelectorWhole nv nv := .inl ⟨rfl, rfl⟩

theorem selectorWhole_takeSwap (nv : Nv) (c : Core) : SelectorWhole nv (takeSwap nv c).1 := by
  unfold takeSwap
  split
  · exact selectorWhole_refl nv
  · exact .inr ⟨rfl, rfl⟩

theorem selectorWhole_proceed (nv : Nv) (c : Core) : SelectorWhole nv (proceed nv c).1 := by
  unfold proceed
  split
  · exact selectorWhole_takeSwap nv c
  · exact selectorWhole_refl nv

theorem selectorWhole_checkComplete (nv : Nv) (ps : List Place) (c : Core) : SelectorWhole nv (checkComplete nv ps c).1 := by
  unfold checkComplete
  dsimp only
  split
  · exact selectorWhole_proceed nv _
  · exact selectorWhole_refl nv

theorem selectorWhole_compileWriteDone (nv : Nv) (c : Core) : SelectorWhole nv (compileWriteDone nv c).1 := by
  unfold compileWriteDone
  dsimp only
  split
  · split
    · exact .inl ⟨Nv.setInactive_selector .., Nv.setInactive_generation ..⟩
    · have whole := selectorWhole_proceed (nv.setInactive ⟨c.ts.shadow, [], true⟩) c
      rw [SelectorWhole, Nv.setInactive_selector, Nv.setInactive_generation] at whole
      exact whole
  · exact selectorWhole_refl nv

theorem selectorWhole_planCompletion (nv : Nv) (c : Core) : SelectorWhole nv (planCompletion nv c).1 := by
  unfold planCompletion
  split
  · exact selectorWhole_refl nv
  · dsimp only
    split
    · exact selectorWhole_takeSwap nv _
    · exact selectorWhole_refl nv

theorem selectorWhole_swapNow (s : State) : SelectorWhole s.nv (swapNow s) := by
  unfold swapNow
  split
  · exact selectorWhole_refl s.nv
  · exact selectorWhole_checkComplete ..
  · exact selectorWhole_compileWriteDone ..
  · exact selectorWhole_planCompletion ..

theorem Runs.persistent {nv nv' : Nv} {a c : Core} (h : Runs nv a nv' c) : nv'.persistent = nv.persistent := by
  induction h with
  | trans _ _ i k => exact k.trans i
  | beginCompile => exact Nv.setInactive_persistent ..
  | written => exact Nv.setInactive_persistent ..
  | pend nv nv' c h =>
    obtain ⟨_, rfl⟩ | ⟨_, rfl⟩ := h
    · rfl
    · exact Nv.setInactive_persistent ..
  | abandon nv nv' c d h =>
    obtain ⟨_, rfl⟩ | ⟨_, rfl⟩ := h
    · rfl
    · exact Nv.setInactive_persistent ..
  | swap nv nv' c d h =>
    obtain ⟨_, rfl⟩ | ⟨_, rfl⟩ := h
    · rfl
    · exact Nv.setInactive_persistent ..
  | _ => rfl

/-- What is left where a write of the selector word may have been cut off, ahead of the handler's own write. -/
def swapCut (cut : Cut) (s : State) : Nv := if cut.inSwap then cutSwap cut.swapWritten s else s.nv

theorem cutWrites_eq (cut : Cut) (s : State) :
    cutWrites cut s = if cut.landed then writeLands s.handler (swapCut cut s) else swapCut cut s := rfl

theorem cutSwap_whole (written : Bool) (s : State) : SelectorWhole s.nv (cutSwap written s) := by
  obtain e | e | e := cutSwap_cases written s
  · rw [e]; exact selectorWhole_refl _
  · rw [e]; exact selectorWhole_swapNow s
  · rw [e]; exact .inl ⟨rfl, rfl⟩

theorem cutSwap_unwritten (s : State) :
    (cutSwap false s).selector = s.nv.selector ∧ (cutSwap false s).generation = s.nv.generation := by
  unfold cutSwap
  dsimp only
  split
  · exact ⟨rfl, rfl⟩
  · exact ⟨rfl, rfl⟩

theorem cutSwap_persistent (written : Bool) (s : State) : (cutSwap written s).persistent = s.nv.persistent := by
  obtain ⟨c, runs⟩ := swapNow_runs s
  obtain e | e | e := cutSwap_cases written s
  · rw [e]
  · rw [e]; exact runs.persistent
  · rw [e]; exact runs.persistent

theorem swapCut_settings (cut : Cut) (s : State) : (swapCut cut s).settings = s.nv.settings := by
  unfold swapCut
  split
  · exact cutSwap_settings ..
  · rfl

theorem swapCut_persistent (cut : Cut) (s : State) : (swapCut cut s).persistent = s.nv.persistent := by
  unfold swapCut
  split
  · exact cutSwap_persistent ..
  · rfl

/-- The handler's write touches neither bank, nor the selector word. -/
theorem cutWrites_banks (cut : Cut) (s : State) : (cutWrites cut s).bankA = (swapCut cut s).bankA
    ∧ (cutWrites cut s).bankB = (swapCut cut s).bankB ∧ (cutWrites cut s).selector = (swapCut cut s).selector
    ∧ (cutWrites cut s).generation = (swapCut cut s).generation := by
  rw [cutWrites_eq]
  split
  · exact writeLands_banks ..
  · exact ⟨rfl, rfl, rfl, rfl⟩

/-- A hold set or cleared reads so, and every other hold reads as before (02 R36). -/
theorem has_holdAfter (m : Sparse Unit) (v : Nat) (set : Bool) :
    (holdAfter m v set).has v = set ∧ ∀ w, w ≠ v → (holdAfter m v set).has w = m.has w := by
  unfold holdAfter Sparse.has
  cases set
  · exact ⟨by rw [if_neg Bool.false_ne_true, Sparse.at?_del_same]; rfl,
      fun w hw => by rw [if_neg Bool.false_ne_true, Sparse.at?_del_other m hw]⟩
  · exact ⟨by rw [if_pos rfl, Sparse.at?_put_same]; rfl, fun w hw => by rw [if_pos rfl, Sparse.at?_put_other m () hw]⟩

/-! ### Start-up (01 R2) -/

theorem startIfReady_ready {s : State} (hs : s.lines.supplies = true) (hr : s.lines.resetLow = false) :
    startIfReady s = beginStartUp s := if_pos ⟨hs, hr⟩

theorem startIfReady_waits {s : State} (h : s.lines.supplies = false ∨ s.lines.resetLow = true) : startIfReady s = s := by
  refine if_neg fun ⟨hs, hr⟩ => ?_
  obtain e | e := h
  · exact Bool.noConfusion (hs.symm.trans e)
  · exact Bool.noConfusion (hr.symm.trans e)

/-- Start-up from the reset values: the check runs and DEVICE_RESET is the one notice (01 R2, 09 R186). -/
theorem beginStartUp_atReset {s : State} (h : AtReset s) :
    beginStartUp s = { s with core := starting s.core.ic.picks s.lines.kind.code } := by
  obtain ⟨nv, core, handler, ring, lines, fresh, pending⟩ := s
  obtain ⟨hcore, rfl, rfl⟩ := h
  dsimp only at hcore
  rw [hcore]
  rfl

/-- RESET_RELEASE of a part held in reset with its supplies in range (01 R2). -/
theorem resetRelease_starts {s : State} (h : ResetHoldsEverything s) (hs : s.lines.supplies = true)
    (hr : s.lines.resetLow = true) : resetRelease s = { s with
      core := starting s.core.ic.picks s.lines.kind.code, lines := { s.lines with resetLow := false } } := by
  have held : AtReset { s with lines := { s.lines with resetLow := false } } := h.2 (.inr hr)
  have ready : startIfReady { s with lines := { s.lines with resetLow := false } }
      = beginStartUp { s with lines := { s.lines with resetLow := false } } := startIfReady_ready hs rfl
  rw [resetRelease, if_pos hr, ready, beginStartUp_atReset held]

/-- POWER_ON with RESET high, and with RESET low (01 R2). -/
theorem powerOn_starts {s : State} (hr : s.lines.resetLow = false) : powerOn s = { s with
    core := starting s.core.ic.picks 1, handler := .ready, ring := bypassed, lines := ⟨true, false, .power⟩ } := by
  obtain ⟨nv, core, handler, ring, ⟨supplies, resetLow, kind⟩, fresh, pending⟩ := s
  cases hr
  rfl

theorem powerOn_waits {s : State} (hr : s.lines.resetLow = true) : powerOn s = { s with
    core := cold s.core.ic.picks, handler := .ready, ring := bypassed, lines := ⟨true, true, .power⟩ } := by
  obtain ⟨nv, core, handler, ring, ⟨supplies, resetLow, kind⟩, fresh, pending⟩ := s
  cases hr
  rfl

theorem lines_eq {l : Lines} {kind : ResetKind} (hs : l.supplies = true) (hk : l.kind = kind) :
    ({ l with resetLow := false } : Lines) = ⟨true, false, kind⟩ := by
  subst hk
  rw [hs]

end Sys2Proof.Machine

namespace Sys2Proof.Proofs

open Sys2Proof Sys2Proof.Machine Sys2Proof.Claims

/-- Settles O1: the front command is what the step's own match takes. -/
theorem stepRunsTheFrontCommand : Obligations.StepRunsTheFrontCommand := fun _ _ _ => rfl

/-- Settles O2: a millisecond is `Core.elapse` on the blocks and `wearOut` on the banks. -/
theorem emptyQueueIsOneMillisecond : Obligations.EmptyQueueIsOneMillisecond := by
  intro s hempty
  have hstep : step s = .next (tick s) := by rw [step, hempty]
  have time : (s.core.elapse (s.lines.supplies && !s.lines.resetLow)).log.time
      = if s.lines.supplies = true ∧ s.lines.resetLow = false then s.core.log.time + 1 else s.core.log.time := by
    simp only [Core.elapse, Bool.and_eq_true, Bool.not_eq_true']
  refine ⟨tick s, hstep, rfl, rfl, rfl, hempty, rfl, rfl, rfl, rfl, rfl, rfl, rfl, rfl, rfl, rfl, rfl, rfl, rfl, rfl, rfl, rfl,
    rfl, keys_mapValues .., wearOut_settings .., wearOut_selector .., wearOut_generation .., wearOut_persistent .., time,
    fun i => channelOf_elapse .., fun z n h => ?opened, fun z h => ?closed, fun z h => ?deferred, live_elapse ..,
    fun k => slotOf_elapse ..⟩
  case opened => exact (windowOf_elapse ..).trans (congrArg Window.elapse h)
  case closed => exact (windowOf_elapse ..).trans (congrArg Window.elapse h)
  case deferred => exact (windowOf_elapse ..).trans (congrArg Window.elapse h)

/-- Settles O3: the reset state, field by field. -/
theorem resetState : Obligations.ResetState := ⟨rfl, rfl, rfl, rfl, rfl, rfl, rfl, rfl, rfl, rfl, rfl⟩

/-- The settings of the factory are legal. -/
theorem settingsLegal_factory : SettingsLegal Settings.factory := by
  exact ⟨by decide, by decide, by decide⟩

/-- Settles O4: the factory part keeps every invariant. -/
theorem invariantsHoldAtReset : Obligations.InvariantsHoldAtReset := by
  refine ⟨?queues, tablesAgree_of_none rfl rfl, settingsInRange_of_legal settingsLegal_factory (Acts.legal_ready _),
    (resetHoldsEverything_iff _).2 ⟨bypassDown_reset, ?held⟩, ?arrays, ?values⟩
  case queues =>
    exact (queuesBounded_iff _).2 ⟨⟨portsBounded_reset .., rfl⟩, Nat.le_add_left 1 31, List.nodup_nil,
      fun _ ho => absurd ho List.not_mem_nil⟩
  case held => exact fun h => by simp [State.reset] at h
  case arrays =>
    have rc := coreCanonical_reset 0
    refine (arraysCanonical_iff _).2 ⟨⟨fun id => ?_, fun id => ?_, rfl⟩, ⟨rc.shadow, rc.lastSeq, rc.entries, { rc.blocks with }⟩⟩
    · cases id <;> exact ⟨rfl, rfl, rfl, rfl⟩
    · cases id <;> rfl
  case values => exact (valuesInRange_iff _).2 (inRange_reset 0).same

/-- Settles O6: start-up begins from the reset values, which POWER_ON sets and a part held in reset keeps. -/
theorem startUpBegins : Obligations.StartUpBegins := by
  refine ⟨fun s hr => ?starts, fun s hr => ?waits, fun s h hs hr hk => ?line, fun s h hs hr hk => ?power,
    fun s hs hr => ?unpowered, fun s hr => ?high⟩
  case starts => exact congrArg Host.Outcome.next (powerOn_starts hr)
  case waits => exact congrArg Host.Outcome.next (powerOn_waits hr)
  case line =>
    refine congrArg Host.Outcome.next ((resetRelease_starts h hs hr).trans ?_)
    rw [lines_eq hs hk, hk]
    rfl
  case power =>
    refine congrArg Host.Outcome.next ((resetRelease_starts h hs hr).trans ?_)
    rw [lines_eq hs hk, hk]
    rfl
  case unpowered => exact congrArg Host.Outcome.next ((if_pos hr).trans (startIfReady_waits (.inl hs)))
  case high => exact congrArg Host.Outcome.next (if_neg (by simp [hr]))

/-- Settles O7: with supplies both resets put the part at its reset values, without them they reach the line alone. -/
theorem resetsClearWhatIsVolatile : Obligations.ResetsClearWhatIsVolatile := by
  refine ⟨fun cut s hs => ?loss, fun cut s hs => ?line, fun cut s hs => ?unpoweredLoss, fun cut s hs => ?unpoweredLine⟩
  case loss => exact congrArg Host.Outcome.next (if_pos hs)
  case line => exact congrArg Host.Outcome.next (if_pos hs)
  case unpoweredLoss => exact congrArg Host.Outcome.next (if_neg (by simp [hs]))
  case unpoweredLine => exact congrArg Host.Outcome.next (if_neg (by simp [hs]))

/-- Settles O8: the event that takes the swap writes the selector word at most once and no setting or hold, and the handler's
write touches what it writes alone. -/
theorem cutWritesAreWhole : Obligations.CutWritesAreWhole := by
  intro cut s
  obtain ⟨hA, hB, hselector, hgeneration⟩ := cutWrites_banks cut s
  have hsettings := swapCut_settings cut s
  have hpersistent := swapCut_persistent cut s
  have landed (h : cut.landed = true) : cutWrites cut s = writeLands s.handler (swapCut cut s) :=
    (cutWrites_eq cut s).trans (if_pos h)
  refine ⟨?whole, fun h => ?noSwap, fun h => ?unwritten, fun h => ?notLanded, fun n v o hw h => ?setting,
    fun v o hw h => ?set, fun v o hw h => ?cleared⟩
  case whole =>
    rw [hselector, hgeneration]
    unfold swapCut
    split
    · exact cutSwap_whole ..
    · exact selectorWhole_refl s.nv
  case noSwap =>
    have e : swapCut cut s = s.nv := if_neg (by simp [h])
    rw [hA, hB, hselector, hgeneration, e]
    exact ⟨rfl, rfl, rfl, rfl⟩
  case unwritten =>
    rw [hselector, hgeneration]
    unfold swapCut
    split
    · rw [h]
      exact cutSwap_unwritten s
    · exact ⟨rfl, rfl⟩
  case notLanded =>
    rw [cutWrites_eq, if_neg (by simp [h])]
    exact ⟨hsettings, hpersistent⟩
  case setting =>
    rw [landed h, hw, ← hsettings, ← hpersistent]
    exact ⟨rfl, rfl⟩
  case set =>
    rw [landed h, hw, ← hsettings, ← hpersistent]
    exact ⟨(has_holdAfter _ v true).1, (has_holdAfter _ v true).2, rfl⟩
  case cleared =>
    rw [landed h, hw, ← hsettings, ← hpersistent]
    exact ⟨(has_holdAfter _ v false).1, (has_holdAfter _ v false).2, rfl⟩

end Sys2Proof.Proofs
end

section
/-! Requests: their arrival and taking (O22, O23), settings, mode and mask (O26-O29), and COMPILE (O33). -/

namespace Sys2Proof.Machine

open Sys2Proof.Claims

/-! ### Taking requests in turn (09 R174) -/

/-- A round for each buffer is enough: further rounds find no request held. -/
theorem takeRequests_enough : ∀ {n m : Nat} {s : State}, s.ring.buffers.length ≤ n → s.ring.buffers.length ≤ m →
    takeRequests n s = takeRequests m s
  | 0, m, s, hn, _ => by
    have held : takeHeld s.ring.buffers = none := by
      rw [List.length_eq_zero_iff.1 (Nat.le_zero.1 hn)]
      rfl
    rw [takeRequests_held 0 s held, takeRequests_held m s held]
  | n + 1, 0, s, _, hm => by
    have held : takeHeld s.ring.buffers = none := by
      rw [List.length_eq_zero_iff.1 (Nat.le_zero.1 hm)]
      rfl
    rw [takeRequests_held (n + 1) s held, takeRequests_held 0 s held]
  | n + 1, m + 1, s, hn, hm => by
    unfold takeRequests
    split
    · next p station body rest _ htake =>
      have hrest := (takeHeld_rest htake).2
      have fewer := buffers_handReply (originOf p station body)
        (carry s.nv { s.ring with buffers := rest } (if keepsWindow body then s.core else closeLoad s.core)
          (originOf p station body) body).reply
        { s with
          nv := (carry s.nv { s.ring with buffers := rest } (if keepsWindow body then s.core else closeLoad s.core)
            (originOf p station body) body).nv
          core := (carry s.nv { s.ring with buffers := rest } (if keepsWindow body then s.core else closeLoad s.core)
            (originOf p station body) body).core
          ring := { s.ring with buffers := rest } }
      exact takeRequests_enough (Nat.le_trans fewer (by dsimp only; omega)) (Nat.le_trans fewer (by dsimp only; omega))
    · rfl

theorem takeHeld_oldest (p : Port) (station : Byte) (body : List Byte) (post : List Buffered) :
    ∀ {pre : List Buffered}, takeHeld pre = none →
      takeHeld (pre ++ ⟨p, .request station body⟩ :: post) = some ((p, station, body), pre ++ post)
  | [], _ => rfl
  | ⟨q, .request st b⟩ :: pre, h => nomatch h
  | ⟨q, .forward f x⟩ :: pre, h => by
    simp only [takeHeld, Option.map_eq_none_iff] at h
    simp [takeHeld, takeHeld_oldest p station body post h]

theorem serve_none {s : State} (h : takeHeld s.ring.buffers = none) : serve s = s := takeRequests_held _ s h

/-- The oldest held request is taken, and then those after it. -/
theorem serve_oldest {s : State} (hready : s.handler = .ready) {p : Port} {station : Byte} {body : List Byte}
    {rest : List Buffered} (h : takeHeld s.ring.buffers = some ((p, station, body), rest)) :
    serve s = serve (endEvent (takeRequest p station body { s with ring := { s.ring with buffers := rest } })) := by
  have hlength := (takeHeld_rest h).2
  have first : serve s = takeRequests rest.length
      (endEvent (takeRequest p station body { s with ring := { s.ring with buffers := rest } })) := by
    unfold serve
    rw [← hlength, takeRequests]
    simp only [hready, h]
  rw [first]
  exact takeRequests_enough (buffers_handReply ..) (Nat.le_refl _)

/-! ### The arrival of a request (01 R6, R8, R9) -/

section
variable {p : Port} {station : Byte} {body : List Byte} {s : State}

theorem requestArrives_consumed (hup : s.ring.isUp p = true) (hroom : s.ring.occupied p < Config.buffers)
    (hown : ownSource s station = false) : requestArrives p station body s = consumeRequest p station body s := by
  rw [requestArrives, if_neg (by simp [hup]), if_neg (Nat.not_le.2 hroom), if_neg (by simp [hown])]

theorem requestArrives_full (hup : s.ring.isUp p = true) (hfull : Config.buffers ≤ s.ring.occupied p) :
    requestArrives p station body s = countOverflow s := by
  rw [requestArrives, if_neg (by simp [hup]), if_pos hfull]

theorem requestArrives_own (hup : s.ring.isUp p = true) (hroom : s.ring.occupied p < Config.buffers)
    (hown : ownSource s station = true) : requestArrives p station body s = s := by
  rw [requestArrives, if_neg (by simp [hup]), if_neg (Nat.not_le.2 hroom), if_pos hown]

theorem countOverflow_eq (s : State) : countOverflow s = { s with ring := { s.ring with
    overflow := if s.ring.overflow = 65535 then 65535 else s.ring.overflow + 1 } } := by rw [countOverflow, satInc_eq]

theorem countRefused_eq (s : State) : countRefused s = { s with ring := { s.ring with
    refusedSource := if s.ring.refusedSource = 65535 then 65535 else s.ring.refusedSource + 1 } } := by
  rw [countRefused, satInc_eq]

theorem countBad_eq (s : State) : countBad s = { s with ring := { s.ring with
    badFrame := if s.ring.badFrame = 65535 then 65535 else s.ring.badFrame + 1 } } := by rw [countBad, satInc_eq]

theorem consumeRequest_refused (h : isManager s.nv.settings station = false) :
    consumeRequest p station body s = countRefused s := if_neg (by simp [h])

theorem consumeRequest_manager (h : isManager s.nv.settings station = true) :
    consumeRequest p station body s = serve { s with ring := s.ring.hold p (.request station body) } := if_pos h

end

/-! ### What a taken request comes to (09 R174, R175) -/

/-- A taken request is carried out on the blocks with the load window closed but for LOAD DATA and FILL. -/
def carriedOut (p : Port) (station : Byte) (body : List Byte) (s : State) : Carried :=
  carry s.nv s.ring (if keepsWindow body then s.core else closeLoad s.core) (originOf p station body) body

theorem takeRequest_carriedOut (p : Port) (station : Byte) (body : List Byte) (s : State) :
    takeRequest p station body s = handReply (originOf p station body) (carriedOut p station body s).reply
      { s with nv := (carriedOut p station body s).nv, core := (carriedOut p station body s).core } := rfl

/-- It does not depend on the answers queued. -/
theorem carriedOut_answers (p : Port) (station : Byte) (body : List Byte) (s : State) (as : List Answer) :
    carriedOut p station body { s with ring := { s.ring with answers := as } } = carriedOut p station body s :=
  carry_answers ..

theorem argumentLength_unknown {n : Nat} (h : requestKinds.contains n = false) : argumentLength n = none := by
  unfold argumentLength
  split
  case h_25 => rfl
  all_goals cases h

theorem carryKind_unknown {n : Nat} (h : requestKinds.contains n = false) (nv : Nv) (r : Ring) (c : Core) (o : Origin)
    (args : List Byte) : carryKind nv r c o n args = ⟨plain .badRequest, nv, c⟩ := by
  unfold carryKind
  split
  case h_27 => rfl
  all_goals cases h

theorem keepsWindow_unknown {k tag : Byte} {args : List Byte} (h : requestKinds.contains k.toNat = false) :
    keepsWindow (k :: tag :: args) = false := by
  simp only [keepsWindow, Bool.or_eq_false_iff, beq_eq_false_iff_ne]
  constructor
  · rintro rfl
    cases h
  · rintro rfl
    cases h

/-! ### SET SETTING (09 R182) -/

theorem clamped_eq {n : Nat} (hn : n ≤ 9) (v : Nat) : clamped n v = clampSetting n v := by
  have hrange := settingRange_ordered hn
  unfold clamped clampSetting
  rw [← settingRange_eq hn]
  dsimp only
  split
  · omega
  · split <;> omega

theorem addressClash_iff (x : Settings) (n v : Nat) : AddressClash x n v ↔ addressConflict x n v = true := by
  unfold AddressClash
  match n with
  | 0 => simp [addressConflict]
  | 1 => simp [addressConflict]
  | 2 => simp [addressConflict]
  | _ + 3 => simp [addressConflict]

section
variable {x : Settings} {mode : Mode} {o : Origin} {args : List Byte}

theorem replySetSetting_unknown (h : 9 < u8 args 0) : replySetSetting x mode o args = plain .badRequest := if_pos h

theorem replySetSetting_wrongMode (hn : u8 args 0 ≤ 9) (h : u8 args 0 = 0 ∧ mode ≠ .halt) :
    replySetSetting x mode o args = plain .wrongMode := by
  rw [replySetSetting, if_neg (Nat.not_lt.2 hn), if_pos h]

/-- Past the number and the mode, the clamped value is compared with the addresses and with the stored one. -/
theorem replySetSetting_checked (hn : u8 args 0 ≤ 9) (hmode : ¬ (u8 args 0 = 0 ∧ mode ≠ .halt)) :
    replySetSetting x mode o args =
      if addressConflict x (u8 args 0) (clampSetting (u8 args 0) (u16 args 1)) then plain .badRequest
      else if x.list.getD (u8 args 0) 0 = clampSetting (u8 args 0) (u16 args 1) then
        doneWith (settingData (u8 args 0) (clampSetting (u8 args 0) (u16 args 1)))
      else .work (.setting (u8 args 0) (clampSetting (u8 args 0) (u16 args 1)) o) := by
  rw [replySetSetting, if_neg (Nat.not_lt.2 hn), if_neg hmode]

end

/-! ### SET MODE and ZONE MASK (06 R97, R99) -/

@[simp] theorem modeOfCode_code (m : Mode) : modeOfCode m.code = some m := by cases m <;> rfl

theorem modeOfCode_of_two_lt {k : Nat} (h : 2 < k) : modeOfCode k = none :=
  match k, h with
  | _ + 3, _ => rfl

theorem getLsbD_maskAfter (action : Nat) (selection mask : Word32) {z : Nat} (hz : z < 32) :
    (maskAfter action selection mask).getLsbD z
      = if selection.getLsbD z then decide (action = 1) else mask.getLsbD z := by
  unfold maskAfter
  by_cases h : action = 1
  · rw [if_pos h, BitVec.getLsbD_or]
    cases selection.getLsbD z <;> simp [h]
  · rw [if_neg h, BitVec.getLsbD_and, BitVec.getLsbD_not]
    cases selection.getLsbD z <;> simp [h, hz]

end Sys2Proof.Machine

namespace Sys2Proof.Proofs

open Sys2Proof Sys2Proof.Machine Sys2Proof.Claims

/-! ### What a taken request comes to, in the words of the statements -/

theorem exec_unknown_taken {p : Port} {station : Byte} {s : State} (body : List Byte) (ht : Taken p station s) :
    exec (.requestUnknownKind p station body) s = .next (settle (takeRequest p station body s)) := by
  obtain ⟨hup, hroom, hown, hman, hready, hheld⟩ := ht
  refine congrArg Host.Outcome.next ?_
  rw [requestArrives_taken p station body s hup hroom hown hman hready hheld, settle_endEvent]

theorem exec_unknown_answers {p : Port} {station : Byte} {s : State} {body : List Byte} {r : Result} {d : List Byte} {nv : Nv}
    {c : Core} (ht : Taken p station s) (hx : carriedOut p station body s = ⟨.answer r d, nv, c⟩) :
    exec (.requestUnknownKind p station body) s
      = .next (settle (handed (originOf p station body) r d { s with nv := nv, core := c })) := by
  rw [exec_unknown_taken body ht, takeRequest_carriedOut, hx]
  exact congrArg (fun t => Host.Outcome.next (settle t))
    (handAnswer_eq_handed (o := originOf p station body) (s := { s with nv := nv, core := c }) r d ht.1)

/-- A taken request that takes time leaves the handler WORKING, the load window closed. -/
theorem begins_of_carry {i : Instr} {q : Request} {kind : Byte} {s : State} {j : Job}
    (hrow : exec i s = .next (requestRow kind q s)) (ht : TakenNow q s)
    (hx : carry s.nv s.ring (if keepsWindow (kind :: q.tag :: q.args) then s.core else closeLoad s.core)
      (origin q kind) (kind :: q.tag :: q.args) = ⟨.work j, s.nv, closed s.core⟩) : Begins i s j := by
  obtain ⟨hup, hroom, hown, hman, hready, hheld⟩ := ht
  rw [Begins, hrow, requestRow_work kind q s j s.nv (closed s.core) hup hroom hown hman hready hheld hx]

/-- An operation whose answer is handed on, the held requests taken next, ends as the statements say. -/
theorem endsWith_of {i : Instr} {o : Origin} {data : List Byte} {s u : State}
    (h : exec i s = .next (settle (serve (handAnswer (o.answer .done data) u)))) : EndsWith i o data s u := by
  refine ⟨fun ⟨hup, hroom⟩ => ?freely, fun hdown hup hroom => ?rebound, fun hdown hother hroom => ?discarded, fun hfull => ?full⟩
  case freely => rw [h, handAnswer_bound hroom hup]; rfl
  case rebound => rw [h, handAnswer_rebound hroom hdown hup]; rfl
  case discarded => rw [h, handAnswer_discarded hroom hdown hother]; rfl
  case full => rw [h, handAnswer_full (Nat.not_lt.2 hfull), serve_busy (fun e => by cases e)]; rfl

/-- Settles O22: the checks of an arrival in their order, the taking of a request by what it comes to, and the rounds of
`takeRequests`, of which one for each buffer is enough. -/
theorem requestsArriveInEveryState : Obligations.RequestsArriveInEveryState := by
  refine ⟨fun p station body s => ⟨fun hdown => ?down, fun hup hfull => ?full, fun hup hroom hown => ?own,
      fun hup hroom hown hman => ?refused, fun hup hroom hown hman hbusy => ?waits, fun q => ?rows⟩,
    fun p station body s ht => exec_unknown_taken body ht, fun p station body s => ?outcome,
    fun a s => ⟨fun hroom => if_pos hroom, fun hfull => handAnswer_full (Nat.not_lt.2 hfull)⟩, fun s h => ?idle,
    fun s p station body pre post hready hbuffers hpre => ?oldest, fun a s => ⟨fun hup => ?bound, fun hdown hup => ?rebound,
      fun hdown hother => ?discarded⟩⟩
  case down => exact congrArg (fun t => Host.Outcome.next (settle t)) (requestArrives_down hdown station body)
  case full =>
    refine congrArg (fun t => Host.Outcome.next (settle t)) ?_
    rw [requestArrives_full hup hfull, countOverflow_eq]
  case own => exact congrArg (fun t => Host.Outcome.next (settle t)) (requestArrives_own hup hroom hown)
  case refused =>
    refine congrArg (fun t => Host.Outcome.next (settle t)) ?_
    rw [requestArrives_consumed hup hroom hown, consumeRequest_refused hman, countRefused_eq]
  case waits =>
    refine congrArg (fun t => Host.Outcome.next (settle t)) ?_
    rw [requestArrives_consumed hup hroom hown, consumeRequest_manager hman,
      serve_busy (s := { s with ring := s.ring.hold p (.request station body) }) hbusy]
    rfl
  case rows =>
    repeat' refine List.forall_mem_cons.2 ⟨rfl, ?_⟩
    exact List.forall_mem_nil _
  case outcome =>
    refine ⟨(carriedOut p station body s).nv, (carriedOut p station body s).core, ?_⟩
    cases hreply : (carriedOut p station body s).reply with
    | answer r d =>
      refine .inl ⟨(originOf p station body).answer r d, rfl, rfl, ?_⟩
      rintro as u rfl
      rw [takeRequest_carriedOut, carriedOut_answers, hreply]
      rfl
    | softReset =>
      refine .inl ⟨{ (originOf p station body).answer .done [] with softReset := true }, rfl, rfl, ?_⟩
      rintro as u rfl
      rw [takeRequest_carriedOut, carriedOut_answers, hreply]
      rfl
    | work job =>
      refine .inr ⟨job, ?_⟩
      rintro as u rfl
      rw [takeRequest_carriedOut, carriedOut_answers, hreply]
      rfl
  case idle =>
    obtain h | h := h
    · exact serve_busy h
    · exact serve_none h
  case oldest =>
    refine serve_oldest hready ?_
    rw [hbuffers]
    exact takeHeld_oldest p station body post hpre
  case bound => rw [joinAnswers, bindPort, if_pos hup]
  case rebound =>
    rw [joinAnswers, bindPort, hdown, hup]
    rfl
  case discarded =>
    rw [joinAnswers, bindPort, hdown, hother]
    rfl

/-- Settles O23: such a body is refused by `carry`, or by the last row of `carryKind`. -/
theorem unknownKindsAreBadRequests : Obligations.UnknownKindsAreBadRequests := by
  refine fun p station s ht => ⟨exec_unknown_answers ht rfl, fun k => exec_unknown_answers ht rfl,
    fun k tag args hk => exec_unknown_answers (body := k :: tag :: args) ht ?_⟩
  rw [carriedOut, keepsWindow_unknown hk, carry_ownLength (argumentLength_unknown hk), carryKind_unknown hk]
  rfl

/-- Settles O26: the number, the mode, the addresses and the stored value are compared in this order. -/
theorem setSettingChecksInOrder : Obligations.SetSettingChecksInOrder := by
  refine fun q s ht => ⟨fun hlength => answers_of_carry rfl ht (carry_wrongLength rfl hlength), fun hlength h => ?unknown, ?known⟩
  case unknown =>
    refine answers_of_carry rfl ht ((carry_rightLength rfl hlength).trans ?_)
    exact congrArg (fun r => (⟨r, s.nv, closed s.core⟩ : Carried)) (replySetSetting_unknown h)
  case known =>
    rintro hlength n v rfl hn rfl
    rw [clamped_eq hn, addressClash_iff]
    have carries (r : Reply) (h : replySetSetting s.nv.settings s.core.ic.mode (origin q 0x03) q.args = r) :
        carry s.nv s.ring (closeLoad s.core) (origin q 0x03) (0x03 :: q.tag :: q.args) = ⟨r, s.nv, closed s.core⟩ :=
      (carry_rightLength rfl hlength).trans (congrArg (fun r => (⟨r, s.nv, closed s.core⟩ : Carried)) h)
    refine ⟨fun hmode => answers_of_carry rfl ht (carries _ (replySetSetting_wrongMode hn hmode)), fun hmode => ?_⟩
    have checked := replySetSetting_checked (x := s.nv.settings) (o := origin q 0x03) hn hmode
    refine ⟨fun hclash => ?clash, fun hclash => ⟨fun hsame => ?same, fun hother => ?begins⟩⟩
    case clash => exact answers_of_carry rfl ht (carries _ (checked.trans (if_pos hclash)))
    case same => exact answers_of_carry rfl ht (carries _ (checked.trans ((if_neg hclash).trans (if_pos hsame))))
    case begins => exact begins_of_carry rfl ht (carries _ (checked.trans ((if_neg hclash).trans (if_neg hother))))

/-- Settles O27: the write lands, the retired address follows a change of the part address, and the answer is handed on. -/
theorem writesTakeEffectAtTheirEnd : Obligations.WritesTakeEffectAtTheirEnd := by
  refine ⟨fun n v o s u hw hu => endsWith_of ?setting, fun v set o s u hw hu => endsWith_of ?hold, fun s h => ?noSetting,
    fun s h => ?noHold⟩
  case setting =>
    refine congrArg (fun t => Host.Outcome.next (settle t)) ?_
    have hring : retire s.nv n s.ring = { s.ring with
        retired := if n = 0 then some (BitVec.ofNat 8 s.nv.settings.partAddress) else s.ring.retired } := by
      unfold retire
      split <;> rfl
    rw [settingWritten, hw]
    dsimp only
    rw [hring, hu]
    rfl
  case hold =>
    refine congrArg (fun t => Host.Outcome.next (settle t)) ?_
    rw [holdWritten, hw, hu]
    rfl
  case noSetting =>
    refine congrArg (fun t => Host.Outcome.next (settle t)) ?_
    unfold settingWritten
    split
    · next n v o e => exact absurd e (h n v o)
    · rfl
  case noHold =>
    refine congrArg (fun t => Host.Outcome.next (settle t)) ?_
    unfold holdWritten
    split
    · next v b o e => exact absurd e (h v b o)
    · rfl

/-- SET MODE is carried out on the blocks with the window closed. -/
theorem answers_setMode {q : Request} {s : State} {r : Result} {d : List Byte} {c : Core} (ht : TakenNow q s)
    (hlength : q.args.length = 1) (h : doSetMode q.args (closed s.core) = (.answer r d, c)) :
    Answers (.setMode q) q 0x04 s r d s.nv c :=
  answers_of_carry rfl ht ((carry_rightLength rfl hlength).trans (congrArg (Carried.keep s.nv) h))

/-- Settles O28: the code, the current mode and the table state decide. -/
theorem setModeChangesTheMode : Obligations.SetModeChangesTheMode := by
  refine fun q s ht => ⟨fun hlength => answers_of_carry rfl ht (carry_wrongLength rfl hlength),
    fun hlength h => answers_setMode ht hlength ?unknown, fun hlength m hm => ?known⟩
  case unknown =>
    rw [doSetMode, modeOfCode_of_two_lt h]
    rfl
  case known =>
    have decided : doSetMode q.args (closed s.core) =
        if m = s.core.ic.mode then (plain .done, closed s.core)
        else if m ≠ .halt ∧ s.core.ts.valid = false then (plain (.refused .noTables), closed s.core)
        else (plain .done, notify .modeChanged 0 65535 65535 m.code
          { closed s.core with ic := { s.core.ic with mode := m } }) := by
      rw [doSetMode, ← hm, modeOfCode_code]
      rfl
    refine ⟨fun hsame => ?same, fun hother hrun hnone => ?noTables, fun hother h => ?taken⟩
    case same => exact answers_setMode ht hlength (decided.trans (if_pos hsame))
    case noTables => exact answers_setMode ht hlength (decided.trans ((if_neg hother).trans (if_pos ⟨hrun, hnone⟩)))
    case taken =>
      refine answers_setMode ht hlength (decided.trans ((if_neg hother).trans (if_neg fun ⟨hrun, hnone⟩ => ?_)))
      obtain h | h := h
      · exact hrun h
      · exact Bool.noConfusion (h.symm.trans hnone)

/-- ZONE MASK is carried out on the blocks with the window closed. -/
theorem answers_zoneMask {q : Request} {s : State} {r : Result} {d : List Byte} {c : Core} (ht : TakenNow q s)
    (hlength : q.args.length = 5) (h : doZoneMask s.nv q.args (closed s.core) = (.answer r d, c)) :
    Answers (.zoneMask q) q 0x05 s r d s.nv c :=
  answers_of_carry rfl ht ((carry_rightLength rfl hlength).trans (congrArg (Carried.keep s.nv) h))

/-- Settles O29: the mask is or'ed with the selection, or and'ed with its complement. -/
theorem zoneMaskMarksSelectedZones : Obligations.ZoneMaskMarksSelectedZones := by
  refine fun q s ht => ⟨fun hlength => answers_of_carry rfl ht (carry_wrongLength rfl hlength),
    fun hlength h => answers_zoneMask ht hlength (if_pos h), fun hlength h => ?taken⟩
  case taken =>
    refine ⟨maskAfter (u8 q.args 0) (BitVec.ofNat 32 (u32 q.args 1)) s.core.ic.mask,
      fun z hz => getLsbD_maskAfter _ _ _ hz, answers_zoneMask ht hlength ?_⟩
    exact if_neg (Nat.not_lt.2 h)

/-- Settles O33: with the compile state IDLE the compile begins, the inactive bank marked and nothing else non-volatile touched. -/
theorem compileStarts : Obligations.CompileStarts := by
  refine fun q s ht => ⟨fun hargs => answers_of_carry rfl ht (carry_wrongLength rfl (mt List.length_eq_zero_iff.1 hargs)),
    fun hargs hbusy => ?busy, fun hargs hidle => ⟨s.nv.setInactive { s.nv.inactive with valid := false }, ?starts,
      Nv.inactive_setInactive .., Nv.active_setInactive .., Nv.setInactive_selector .., Nv.setInactive_generation ..,
      Nv.setInactive_persistent .., Nv.setInactive_settings ..⟩⟩
  case busy =>
    refine answers_of_carry rfl ht ((carry_rightLength rfl (List.length_eq_zero_iff.2 hargs)).trans ?_)
    exact congrArg (fun x : Reply × Nv × Core => (⟨x.1, x.2.1, x.2.2⟩ : Carried))
      (if_pos (compileBusy_of_ne (c := closed s.core) hbusy))
  case starts =>
    refine answers_of_carry rfl ht ((carry_rightLength rfl (List.length_eq_zero_iff.2 hargs)).trans ?_)
    exact congrArg (fun x : Reply × Nv × Core => (⟨x.1, x.2.1, x.2.2⟩ : Carried))
      (if_neg fun busy => Bool.false_ne_true ((compileBusy_of_idle (c := closed s.core) hidle).symm.trans busy))

end Sys2Proof.Proofs
end

section
/-! Requests that their own rule answers at once: READ ENTRY (O36), the incident requests (O38, O39, O41, O42) and the holds (O43);
and the expiries of a staleness and a confirmation timer (O46, O48). -/

namespace Sys2Proof.Machine

open Sys2Proof.Claims

/-! ### READ ENTRY (03 R45) -/

theorem readBankOfCode_of_two_lt {k : Nat} (h : 2 < k) : readBankOfCode k = none :=
  match k, h with
  | _ + 3, _ => rfl

section
variable {nv : Nv} {args : List Byte} {c : Core}

theorem doReadEntry_unknown (h : 2 < u8 args 0 ∨ 3 < u8 args 1) : doReadEntry nv args c = (plain .badRequest, c) := by
  unfold doReadEntry
  obtain h | h := h
  · rw [readBankOfCode_of_two_lt h]
  · rw [tableOfCode_of_three_lt h]
    split <;> simp_all

/-- What READ ENTRY comes to once its count and indexes stand, by the bank. -/
def readFrom (nv : Nv) (args : List Byte) (t : TableName) (is : List Nat) (c : Core) : ReadBank → Reply × Core
  | .shadow =>
    if compileBusy c then (plain .busy, c)
    else (doneWith (args ++ is.flatMap fun i => entryBytes (seenShadow c.ts.shadow t i)), c)
  | .inactive => (doneWith (args ++ is.flatMap fun i => entryBytes (seenInactive nv.inactive t i)), c)
  | .active =>
    let c := luUpdate nv (is.foldl (fun c i => touchEntry nv t i c) c)
    (doneWith (args ++ is.flatMap fun i => entryBytes (seen nv t i c)), c)

theorem doReadEntry_known {b : ReadBank} {t : TableName} (hb : readBankOfCode (u8 args 0) = some b)
    (ht : t.code = u8 args 1) : doReadEntry nv args c =
      if u8 args 4 < 1 ∨ 16 < u8 args 4 ∨ t.size < u16 args 2 + u8 args 4 then (plain .badRequest, c)
      else readFrom nv args t ((List.range (u8 args 4)).map (u16 args 2 + ·)) c b := by
  unfold doReadEntry
  rw [hb, ← ht, tableOfCode_code]
  cases b <;> rfl

theorem entryBytes_eq (x : Seen) : entryBytes x = match x with
    | .absent => List.replicate 13 0
    | .poisoned => 2 :: List.replicate 12 0
    | .value r => 1 :: r.bytes := by
  cases x <;> rfl

theorem entryBytes_seenShadow (t : Tables) (n : TableName) (i : Nat) : entryBytes (seenShadow t n i) =
    match (t.of n).at? i with
    | none => List.replicate 13 0
    | some r => 1 :: r.bytes := by
  unfold seenShadow
  cases (t.of n).at? i <;> rfl

theorem entryBytes_seenInactive (b : Bank) (t : TableName) (i : Nat) : entryBytes (seenInactive b t i) =
    if b.valid = false then List.replicate 13 0
    else match (b.tables.of t).at? i with
      | none => List.replicate 13 0
      | some r => if b.wrongAt ⟨t.area, i⟩ = some .two then 2 :: List.replicate 12 0 else 1 :: r.bytes := by
  unfold seenInactive
  cases b.valid with
  | false => rfl
  | true =>
    cases (b.tables.of t).at? i with
    | none => rfl
    | some r =>
      by_cases h : b.wrongAt ⟨t.area, i⟩ = some .two <;> simp [h, entryBytes_eq]

end

/-! ### The incident requests (06 R103-R120) -/

section
variable {nv : Nv} {args : List Byte} {c : Core} {i : Incident}

theorem doConsent_none (h : incident? (u8 args 0) c = none) : doConsent nv args c = (plain .notFound, c) := by
  rw [doConsent, h]

theorem doConsent_live (h : incident? (u8 args 0) c = some i) : doConsent nv args c =
    if i.state = .awaitingConsent then
      takenFor nv (u8 args 0) (enterIsolating nv (u8 args 0) i.owed (changeIncident (u8 args 0) (fun x => { x with owed := false }) c))
    else (plain (.refused .state), c) := by
  rw [doConsent, h]

theorem doRefuse_none (h : incident? (u8 args 0) c = none) : doRefuse nv args c = (plain .notFound, c) := by
  rw [doRefuse, h]

theorem doRefuse_live (h : incident? (u8 args 0) c = some i) : doRefuse nv args c =
    if i.state = .awaitingConsent then takenFor nv (u8 args 0) (refuseIncident nv i c) else (plain (.refused .state), c) := by
  rw [doRefuse, h]

theorem doSuspend_none (h : incident? (u8 args 0) c = none) : doSuspend nv args c = (plain .notFound, c) := by
  rw [doSuspend, h]

theorem doSuspend_live (h : incident? (u8 args 0) c = some i) : doSuspend nv args c =
    if i.state = .isolating then
      takenFor nv (u8 args 0) (changeState (u8 args 0) (if inFlight (u8 args 0) c then .suspending else .suspended) c)
    else (plain (.refused .state), c) := by
  rw [doSuspend, h]

theorem doResume_none (h : incident? (u8 args 0) c = none) : doResume nv args c = (plain .notFound, c) := by
  rw [doResume, h]

theorem doResume_live (h : incident? (u8 args 0) c = some i) : doResume nv args c =
    if i.state = .suspending ∨ i.state = .suspended then takenFor nv (u8 args 0) (enterIsolating nv (u8 args 0) false c)
    else (plain (.refused .state), c) := by
  rw [doResume, h]

theorem doExpand_none (h : incident? (u8 args 0) c = none) : doExpand nv args c = (plain .notFound, c) := by
  rw [doExpand, h]

theorem doExpand_live (h : incident? (u8 args 0) c = some i) : doExpand nv args c =
    if 1023 < u16 args 1 then (plain .badRequest, c)
    else if i.state ≠ .confirming ∧ i.state ≠ .isolated ∧ i.state ≠ .unconfirmed then (plain (.refused .state), c)
    else if (i.closure.any fun e => e.valve == u16 args 1 && e.role == .boundary) = false then (plain (.refused .state), c)
    else if Config.passingValves ≤ i.passing.length then (plain (.refused .full), c)
    else takenFor nv (u8 args 0) (enterIsolating nv (u8 args 0) true
      (changeIncident (u8 args 0) (fun x => { x with passing := x.passing ++ [u16 args 1], timer := none }) c)) := by
  rw [doExpand, h]

theorem doRetry_none (h : incident? (u8 args 0) c = none) : doRetry nv args c = (plain .notFound, c) := by
  rw [doRetry, h]

theorem doRetry_live (h : incident? (u8 args 0) c = some i) : doRetry nv args c =
    if i.state = .stalled then takenFor nv (u8 args 0)
      (enterIsolating nv (u8 args 0) true (changeIncident (u8 args 0) (fun x => { x with stall := none }) c))
    else (plain (.refused .state), c) := by
  rw [doRetry, h]

theorem replyReadIncident_none (h : incident? (u8 args 0) c = none) : replyReadIncident args c = plain .notFound := by
  rw [replyReadIncident, h]

theorem replyReadIncident_live (h : incident? (u8 args 0) c = some i) :
    replyReadIncident args c = incidentReply i (u8 args 1) (u8 args 2) := by
  rw [replyReadIncident, h]

theorem incidentReply_unknown {part first : Nat} (h : 3 < part) : incidentReply i part first = plain .badRequest :=
  match part, h with
  | _ + 4, _ => rfl

theorem incidentReply_closure {first : Nat} (h : first ≤ 63) : incidentReply i 1 first =
    doneWith (put8 i.number ++ put8 1 ++ put8 first ++ put8 ((i.closure.drop first).take 32).length
      ++ ((i.closure.drop first).take 32).flatMap closureBytes) := if_neg (Nat.not_lt.2 h)

theorem incidentReply_reopen {first : Nat} (h : first ≤ 63) : incidentReply i 3 first =
    doneWith (put8 i.number ++ put8 3 ++ put8 first ++ put8 ((i.reopen.drop first).take 32).length
      ++ ((i.reopen.drop first).take 32).flatMap reopenBytes) := if_neg (Nat.not_lt.2 h)

end

theorem hasQueued_iff (i : Incident) : i.hasQueued = true ↔ ∃ e ∈ i.closure, e.progress = .queued := by
  simp [Incident.hasQueued]

theorem reopening_iff (n : Nat) (c : Core) : reopening n c = true ↔ ∃ y, incident? n c = some y ∧ y.reopen ≠ [] := by
  unfold reopening
  cases incident? n c <;> simp

/-- The incident requests that restore run the arbiter exactly where an entry became SKIPPED or a reopen list stands. -/
theorem restored_restoreIncident (nv : Nv) (i : Incident) (c : Core) : Restored nv i c (restoreIncident nv i c) := by
  refine ⟨enterRestoring nv i.number c, rfl, fun h => if_pos ?_, fun hskips hlists => if_neg fun h => ?_⟩
  · rw [Bool.or_eq_true, hasQueued_iff, reopening_iff]
    exact h
  · rw [Bool.or_eq_true, hasQueued_iff, reopening_iff] at h
    obtain ⟨e, he, hqueued⟩ | ⟨y, hy, hlist⟩ := h
    · exact hskips e he hqueued
    · exact hlist (hlists y hy)

/-! ### The expiries (04 R72, R73; 06 R115) -/

@[simp] theorem notify_ts (k : NoticeKind) (n v g x : Nat) (c : Core) : (notify k n v g x c).ts = c.ts := by
  unfold notify; split <;> rfl

@[simp] theorem notify_wu (k : NoticeKind) (n v g x : Nat) (c : Core) : (notify k n v g x c).wu = c.wu := by
  unfold notify; split <;> rfl

@[simp] theorem notify_lu (k : NoticeKind) (n v g x : Nat) (c : Core) : (notify k n v g x c).lu = c.lu := by
  unfold notify; split <;> rfl

@[simp] theorem notify_ic (k : NoticeKind) (n v g x : Nat) (c : Core) : (notify k n v g x c).ic = c.ic := by
  unfold notify; split <;> rfl

@[simp] theorem notify_ip (k : NoticeKind) (n v g x : Nat) (c : Core) : (notify k n v g x c).ip = c.ip := by
  unfold notify; split <;> rfl

@[simp] theorem notify_ds (k : NoticeKind) (n v g x : Nat) (c : Core) : (notify k n v g x c).ds = c.ds := by
  unfold notify; split <;> rfl

@[simp] theorem reportState_wu (n : Nat) (st : IncidentState) (c : Core) : (reportState n st c).wu = c.wu := by
  unfold reportState
  cases incident? n c <;> simp

@[simp] theorem changeState_wu (n : Nat) (st : IncidentState) (c : Core) : (changeState n st c).wu = c.wu := by
  simp [changeState]

@[simp] theorem leaveList_wu (n i : Nat) (why : Departure) (c : Core) : (leaveList n i why c).wu = c.wu := by
  unfold leaveList
  dsimp only
  repeat' split
  all_goals simp

@[simp] theorem channelOf_setChannel_same (i : Nat) (ch : Channel) (c : Core) : channelOf i (setChannel i ch c) = ch :=
  Sparse.atD_putD_same ..

theorem channelOf_setChannel_other {i j : Nat} (h : j ≠ i) (ch : Channel) (c : Core) :
    channelOf j (setChannel i ch c) = channelOf j c := Sparse.atD_putD_other _ _ _ h

theorem touchRun_only (nv : Nv) (i : Nat) (c : Core) : LocateOnly c (touchRun nv i c) := by
  have h : LocateOnly c (touchIndex nv .sensorIndex i (touchEntry nv .sensor i c)) :=
    (touchEntry_only ..).trans (touchIndex_only ..)
  unfold touchRun
  dsimp only
  split
  · split
    · exact h
    · exact (h.trans (LocateOnly.foldl (fun c (p : Nat × Record) => touchEntry_only nv .association p.1 c) _ _)).trans
        ⟨rfl, rfl, rfl, rfl, rfl, rfl, rfl, rfl, rfl, rfl, rfl, rfl, rfl⟩
  · exact h
  · exact h

theorem scoreChange_wu (nv : Nv) (i : Nat) (old new : Channel) (c : Core) : (scoreChange nv i old new c).wu = c.wu := by
  unfold scoreChange
  split
  · exact (touchRun_only nv i c).wu
  · rfl

theorem canStale_iff (ch : Channel) :
    canStale ch = true ↔ ch.timer = some 0 ∧ ch.state ≠ .inhibited ∧ ch.state ≠ .stale := by
  unfold canStale
  cases ch.state <;> simp

/-- A staleness expiry changes the contexts only in its channel. -/
theorem stalenessExpiry_wu {nv : Nv} {i : Nat} {c : Core} (h : canStale (channelOf i c) = true) :
    (stalenessExpiry nv i c).wu = (setChannel i (staled (channelOf i c)) c).wu := by
  have updated : (luUpdate nv (scoreChange nv i (channelOf i c) (staled (channelOf i c))
      (setChannel i (staled (channelOf i c)) c))).wu = (setChannel i (staled (channelOf i c)) c).wu :=
    (luUpdate_only ..).wu.trans (scoreChange_wu ..)
  unfold stalenessExpiry
  rw [if_pos h]
  dsimp only
  split
  · rw [leaveList_wu, notify_wu, updated]
  · rw [notify_wu, updated]

end Sys2Proof.Machine

namespace Sys2Proof.Proofs

open Sys2Proof Sys2Proof.Machine Sys2Proof.Claims

/-! ### The rule of a kind -/

/-- A row of the table whose request, of its length, is carried out by a rule of its own on the blocks with the load window closed
(03 R40, 09 R175). -/
structure Ruled (i : Instr) (q : Request) (kind : Byte) (n : Nat) (rule : Nv → Core → Reply × Core) : Prop where
  row : ∀ s, exec i s = .next (requestRow kind q s)
  length : argumentLength kind.toNat = some n
  closes : keepsWindow (kind :: q.tag :: q.args) = false
  carries : ∀ nv r c, carryKind nv r c (origin q kind) kind.toNat q.args = .keep nv (rule nv c)

section
variable {i : Instr} {q : Request} {kind : Byte} {n : Nat} {rule : Nv → Core → Reply × Core} {s : State}

/-- A taken request is answered what its rule says. -/
theorem Ruled.answers {r : Result} {d : List Byte} {c : Core} (h : Ruled i q kind n rule) (ht : TakenNow q s)
    (hlength : q.args.length = n) (hr : rule s.nv (closed s.core) = (.answer r d, c)) : Answers i q kind s r d s.nv c := by
  refine answers_of_carry (h.row s) ht ?_
  rw [h.closes, carry_rightLength h.length hlength, h.carries]
  exact congrArg (Carried.keep s.nv) hr

theorem Ruled.wrongLength (h : Ruled i q kind n rule) (ht : TakenNow q s) (hlength : q.args.length ≠ n) :
    Refuses i q kind s .badRequest := by
  refine answers_of_carry (h.row s) ht ?_
  rw [h.closes, carry_wrongLength h.length hlength]
  rfl

theorem Ruled.begins {j : Job} (h : Ruled i q kind n rule) (ht : TakenNow q s) (hlength : q.args.length = n)
    (hr : rule s.nv (closed s.core) = (.work j, closed s.core)) : Begins i s j := by
  refine begins_of_carry (h.row s) ht ?_
  rw [h.closes, carry_rightLength h.length hlength, h.carries]
  exact congrArg (Carried.keep s.nv) hr

theorem Ruled.needsItsIncident (h : Ruled i q kind n rule) (ht : TakenNow q s)
    (hnone : ∀ nv c, incident? (u8 q.args 0) c = none → rule nv c = (plain .notFound, c)) : NeedsItsIncident i q kind n s :=
  ⟨h.wrongLength ht, fun hlength hn => h.answers ht hlength (hnone s.nv (closed s.core) hn)⟩

/-- A request taken for an incident has its effect and is answered the incident's state. -/
theorem Ruled.taken {k : Nat} {effect : Core} (h : Ruled i q kind n rule) (ht : TakenNow q s) (hlength : q.args.length = n)
    (hr : rule s.nv (closed s.core) = takenFor s.nv k effect) : TakenForIncident i q kind s k effect :=
  ⟨luUpdate s.nv effect, takenState k (luUpdate s.nv effect), rfl, rfl, h.answers ht hlength hr⟩

end

theorem ruled_readEntry (q : Request) : Ruled (.readEntry q) q 0x15 5 fun nv c => doReadEntry nv q.args c :=
  ⟨fun _ => rfl, rfl, rfl, fun _ _ _ => rfl⟩

theorem ruled_consent (q : Request) : Ruled (.consent q) q 0x21 1 fun nv c => doConsent nv q.args c :=
  ⟨fun _ => rfl, rfl, rfl, fun _ _ _ => rfl⟩

theorem ruled_refuse (q : Request) : Ruled (.refuse q) q 0x22 1 fun nv c => doRefuse nv q.args c :=
  ⟨fun _ => rfl, rfl, rfl, fun _ _ _ => rfl⟩

theorem ruled_suspend (q : Request) : Ruled (.suspend q) q 0x23 1 fun nv c => doSuspend nv q.args c :=
  ⟨fun _ => rfl, rfl, rfl, fun _ _ _ => rfl⟩

theorem ruled_resume (q : Request) : Ruled (.resume q) q 0x24 1 fun nv c => doResume nv q.args c :=
  ⟨fun _ => rfl, rfl, rfl, fun _ _ _ => rfl⟩

theorem ruled_expand (q : Request) : Ruled (.expand q) q 0x26 3 fun nv c => doExpand nv q.args c :=
  ⟨fun _ => rfl, rfl, rfl, fun _ _ _ => rfl⟩

theorem ruled_retry (q : Request) : Ruled (.retry q) q 0x27 1 fun nv c => doRetry nv q.args c :=
  ⟨fun _ => rfl, rfl, rfl, fun _ _ _ => rfl⟩

theorem ruled_readIncident (q : Request) : Ruled (.readIncident q) q 0x28 3 fun _ c => (replyReadIncident q.args c, c) :=
  ⟨fun _ => rfl, rfl, rfl, fun _ _ _ => rfl⟩

theorem ruled_setHold (q : Request) : Ruled (.setHold q) q 0x30 4 fun nv c => doSetHold nv (origin q 0x30) q.args c :=
  ⟨fun _ => rfl, rfl, rfl, fun _ _ _ => rfl⟩

theorem ruled_holdLock (q : Request) : Ruled (.holdLock q) q 0x31 0 fun _ c => doHoldLock c :=
  ⟨fun _ => rfl, rfl, rfl, fun _ _ _ => rfl⟩

theorem exists_readBank {k : Nat} (h : k ≤ 2) : ∃ b, readBankOfCode k = some b :=
  match k, h with
  | 0, _ | 1, _ | 2, _ => ⟨_, rfl⟩

theorem exists_tableName {k : Nat} (h : k ≤ 3) : ∃ t : TableName, t.code = k :=
  match k, h with
  | 0, _ => ⟨.segment, rfl⟩
  | 1, _ => ⟨.valve, rfl⟩
  | 2, _ => ⟨.sensor, rfl⟩
  | 3, _ => ⟨.association, rfl⟩

/-- Settles O36: the bank and the table, then the count and the last index; each bank's entries as they are reported. -/
theorem readEntryReportsEntries : Obligations.ReadEntryReportsEntries := by
  refine fun q s ht => ⟨(ruled_readEntry q).wrongLength ht, fun hlength hbad => ?bad, fun hlength t htable hlow hhigh hbank => ?known⟩
  case bad =>
    refine (ruled_readEntry q).answers ht hlength ?_
    by_cases hunknown : 2 < u8 q.args 0 ∨ 3 < u8 q.args 1
    · exact doReadEntry_unknown hunknown
    · obtain ⟨hb, hn⟩ := not_or.1 hunknown
      obtain ⟨b, hb⟩ := exists_readBank (Nat.not_lt.1 hb)
      obtain ⟨t, ht⟩ := exists_tableName (Nat.not_lt.1 hn)
      exact (doReadEntry_known hb ht).trans (if_pos (by omega))
  case known =>
    refine ⟨fun hlast => ?last, fun hlast is his => ?read⟩
    case last =>
      obtain ⟨b, hb⟩ := exists_readBank (by assumption)
      exact (ruled_readEntry q).answers ht hlength ((doReadEntry_known hb htable).trans (if_pos (by omega)))
    case read =>
      subst his
      have read {b : ReadBank} (hb : readBankOfCode (u8 q.args 0) = some b) :=
        (doReadEntry_known (nv := s.nv) (c := closed s.core) hb htable).trans (if_neg (by omega))
      refine ⟨fun h hbusy => ?busy, fun h hidle => ?shadow, fun h => ?inactive, fun h => ⟨_, rfl, ?active⟩⟩
      case busy =>
        refine (ruled_readEntry q).answers ht hlength ((read (b := .shadow) (by rw [h]; rfl)).trans ?_)
        exact if_pos (compileBusy_of_ne (c := closed s.core) hbusy)
      case shadow =>
        refine (ruled_readEntry q).answers ht hlength ((read (b := .shadow) (by rw [h]; rfl)).trans ?_)
        rw [readFrom, compileBusy_of_idle (c := closed s.core) hidle, if_neg Bool.false_ne_true]
        simp only [entryBytes_seenShadow]
        rfl
      case inactive =>
        refine (ruled_readEntry q).answers ht hlength ((read (b := .inactive) (by rw [h]; rfl)).trans ?_)
        simp only [readFrom, entryBytes_seenInactive]
        rfl
      case active =>
        refine (ruled_readEntry q).answers ht hlength ((read (b := .active) (by rw [h]; rfl)).trans ?_)
        simp only [readFrom, entryBytes_eq]
        rfl

/-- Settles O38: both requests by the incident and its state. -/
theorem consentAndRefuse : Obligations.ConsentAndRefuse := by
  refine fun q s ht => ⟨(ruled_consent q).needsItsIncident ht fun _ _ => doConsent_none,
    (ruled_refuse q).needsItsIncident ht fun _ _ => doRefuse_none, ?_⟩
  rintro hlength n i rfl hi
  have consent := doConsent_live (nv := s.nv) (c := closed s.core) hi
  have refuse := doRefuse_live (nv := s.nv) (c := closed s.core) hi
  refine ⟨fun hstate => ⟨(ruled_consent q).answers ht hlength (consent.trans (if_neg hstate)),
      (ruled_refuse q).answers ht hlength (refuse.trans (if_neg hstate))⟩, fun hstate c hc => ?consented, fun hstate => ?refused⟩
  case consented =>
    subst hc
    refine ⟨fun howed => (ruled_consent q).taken ht hlength ?_, fun howed => (ruled_consent q).taken ht hlength ?_⟩
    · rw [consent, if_pos hstate, howed]
      rfl
    · rw [consent, if_pos hstate, howed]
      rfl
  case refused =>
    have taken := refuse.trans (if_pos hstate)
    refine ⟨fun hkey => (ruled_refuse q).taken ht hlength ?_,
      fun hkey => ⟨_, restored_restoreIncident .., (ruled_refuse q).taken ht hlength ?_⟩⟩
    · rw [taken, refuseIncident, if_pos hkey]
    · rw [taken, refuseIncident, if_neg hkey]

/-- Settles O39: both requests by the incident, its state and the motions in flight. -/
theorem suspendAndResume : Obligations.SuspendAndResume := by
  refine fun q s ht => ⟨(ruled_suspend q).needsItsIncident ht fun _ _ => doSuspend_none,
    (ruled_resume q).needsItsIncident ht fun _ _ => doResume_none, ?_⟩
  rintro hlength n i rfl hi
  have suspend := doSuspend_live (nv := s.nv) (c := closed s.core) hi
  have resume := doResume_live (nv := s.nv) (c := closed s.core) hi
  refine ⟨fun hstate => (ruled_suspend q).answers ht hlength (suspend.trans (if_neg hstate)),
    fun hstate => ⟨fun hmoving => (ruled_suspend q).taken ht hlength ?suspending,
      fun hstill => (ruled_suspend q).taken ht hlength ?suspended⟩,
    fun hing hed => (ruled_resume q).answers ht hlength (resume.trans (if_neg (not_or.2 ⟨hing, hed⟩))),
    fun hstate => (ruled_resume q).taken ht hlength (resume.trans (if_pos hstate))⟩
  case suspending =>
    rw [suspend, if_pos hstate, if_pos ((inFlight_iff _ (closed s.core)).2 hmoving)]
  case suspended =>
    rw [suspend, if_pos hstate, if_neg fun h => ?_]
    obtain ⟨p, hp, howner⟩ := (inFlight_iff _ (closed s.core)).1 h
    exact hstill p hp howner

/-- Settles O41: the checks of EXPAND in their order, RETRY by the state; and the replan queue's own operations. -/
theorem expandAndRetry : Obligations.ExpandAndRetry := by
  refine fun q s ht => ⟨(ruled_expand q).needsItsIncident ht fun _ _ => doExpand_none,
    (ruled_retry q).needsItsIncident ht fun _ _ => doRetry_none, ?expand, ?retry, fun nv n o c => ?queue⟩
  case expand =>
    rintro hlength n v i rfl rfl hi
    have expand := doExpand_live (nv := s.nv) (c := closed s.core) hi
    have boundary : (i.closure.any fun e => e.valve == u16 q.args 1 && e.role == .boundary) = true ↔
        ∃ e ∈ i.closure, e.valve = u16 q.args 1 ∧ e.role = .boundary := by simp
    refine ⟨fun hv => (ruled_expand q).answers ht hlength (expand.trans (if_pos hv)), fun hv => ?_⟩
    rw [if_neg (Nat.not_lt.2 hv)] at expand
    refine ⟨fun hstate => (ruled_expand q).answers ht hlength (expand.trans (if_pos hstate)), fun hstate => ?_⟩
    rw [if_neg fun hother => hother.2.2 (hstate.resolve_left hother.1 |>.resolve_left hother.2.1)] at expand
    refine ⟨fun hnone => (ruled_expand q).answers ht hlength (expand.trans (if_pos (Bool.eq_false_iff.2 fun h => ?_))),
      fun hvalve => ?_⟩
    · obtain ⟨e, he, hvalve⟩ := boundary.1 h
      exact hnone e he hvalve
    · rw [if_neg (by rw [boundary.2 hvalve]; exact Bool.noConfusion)] at expand
      exact ⟨fun hfull => (ruled_expand q).answers ht hlength (expand.trans (if_pos hfull)),
        fun hroom => (ruled_expand q).taken ht hlength (expand.trans (if_neg (Nat.not_le.2 hroom)))⟩
  case retry =>
    rintro hlength n i rfl hi
    have retry := doRetry_live (nv := s.nv) (c := closed s.core) hi
    exact ⟨fun hstate => (ruled_retry q).answers ht hlength (retry.trans (if_neg hstate)),
      fun hstate => (ruled_retry q).taken ht hlength (retry.trans (if_pos hstate))⟩
  case queue =>
    refine ⟨rfl, fun hnone => by rw [joinQueue, hnone], fun i hi => ⟨fun hin => ?_, fun hout => ?_⟩, rfl⟩
    · rw [joinQueue, hi]
      exact if_pos (List.contains_iff_mem.2 hin)
    · rw [joinQueue, hi]
      exact if_neg fun h => hout (List.contains_iff_mem.1 h)

/-- Settles O42: by the part asked for, each with its first index. -/
theorem readIncidentReportsTheRecord : Obligations.ReadIncidentReportsTheRecord := by
  refine fun q s ht => ⟨(ruled_readIncident q).needsItsIncident ht fun _ c h => ?none, ?live⟩
  case none => rw [replyReadIncident_none h]
  case live =>
    rintro hlength i first hi rfl
    have answers {r : Result} {d : List Byte} (h : incidentReply i (u8 q.args 1) (u8 q.args 2) = .answer r d) :
        Answers (.readIncident q) q 0x28 s r d s.nv (closed s.core) :=
      (ruled_readIncident q).answers ht hlength
        (congrArg (fun r => (r, closed s.core)) ((replyReadIncident_live (c := closed s.core) hi).trans h))
    refine ⟨fun hpart => answers (incidentReply_unknown hpart), fun hpart hfirst => answers ?_, fun hpart => answers ?_, ?_,
      fun hpart => answers ?_, ?_⟩
    · obtain hpart | hpart := hpart
      · rw [hpart]
        exact if_pos hfirst
      · rw [hpart]
        exact if_pos hfirst
    · rw [hpart]
      rfl
    · rintro hpart hfirst es rfl
      refine answers ?_
      rw [hpart, incidentReply_closure hfirst]
      rfl
    · rw [hpart]
      rfl
    · rintro hpart hfirst es rfl
      refine answers ?_
      rw [hpart, incidentReply_reopen hfirst]
      rfl

/-- Settles O43: SET HOLD's checks in their order, the hold it sets or clears, and the lock. -/
theorem holdsAreSetClearedAndLocked : Obligations.HoldsAreSetClearedAndLocked := by
  refine ⟨fun q s ht => ⟨(ruled_setHold q).wrongLength ht, fun hlength hbad => ?bad, ?checked⟩,
    fun q s ht => ⟨fun hargs => (ruled_holdLock q).wrongLength ht (mt List.length_eq_zero_iff.1 hargs),
      fun hargs => (ruled_holdLock q).answers ht (List.length_eq_zero_iff.2 hargs) rfl⟩⟩
  case bad => exact (ruled_setHold q).answers ht hlength (if_pos hbad)
  case checked =>
    rintro hlength hv hkind haction v set rfl hset
    have hset : set = (u8 q.args 3 == 1) := hset
    have setHold : doSetHold s.nv (origin q 0x30) q.args (closed s.core) =
        if u8 q.args 2 = 1 then
          (plain .done, { closed s.core with ts := { (closed s.core).ts with
            dynamic := holdAfter (closed s.core).ts.dynamic (u16 q.args 0) set } })
        else if (closed s.core).ts.lock then (plain .locked, closed s.core)
        else if s.nv.persistent.has (u16 q.args 0) = set then (plain .done, closed s.core)
        else (.work (.hold (u16 q.args 0) set (origin q 0x30)), closed s.core) := by
      rw [hset]
      exact if_neg (by omega)
    refine ⟨fun h => ⟨holdAfter s.core.ts.dynamic (u16 q.args 0) set, ?same, ?others, ?dynamic⟩, fun h hlock => ?locked,
      fun h hlock hstands => ?stands, fun h hlock hdiffers => ?begins⟩
    case same => exact (has_holdAfter ..).1
    case others => exact (has_holdAfter ..).2
    case dynamic => exact (ruled_setHold q).answers ht hlength (setHold.trans (if_pos h))
    all_goals rw [if_neg (by omega)] at setHold
    case locked => exact (ruled_setHold q).answers ht hlength (setHold.trans (if_pos hlock))
    all_goals rw [if_neg (c := ((closed s.core).ts.lock = true)) (by rw [show (closed s.core).ts.lock = false from hlock]; exact Bool.noConfusion)] at setHold
    case stands => exact (ruled_setHold q).answers ht hlength (setHold.trans (if_pos hstands))
    case begins => exact (ruled_setHold q).begins ht hlength (setHold.trans (if_neg hdiffers))

/-- An event of the deciding blocks ends as the statements say. -/
theorem ends_of {i : Instr} {f : Nv → Core → Core} {s : State} {c : Core} (hrow : exec i s = .next (coreEvent f s))
    (h : f s.nv s.core = c) : exec i s = .next (ended s.nv c s) := by
  rw [hrow, coreEvent, h]
  rfl

/-- Settles O46: an expired timer's channel becomes STALE, its scores and its incident's list following by the state it left. -/
theorem silentChannelsGoStale : Obligations.SilentChannelsGoStale := by
  rintro i s ch st n rfl rfl
  refine ⟨fun h => ?kept, fun htimer hinhibited hstale => ?stale, fun htimer hstate => ?quiet, fun htimer hstate => ?tripped,
    fun htimer hstate hincident => ?attributed⟩
  case kept =>
    refine ends_of (f := fun nv c => stalenessExpiry nv i c) rfl (if_neg fun hcan => ?_)
    obtain ⟨htimer, hinhibited, hstale⟩ := (canStale_iff _).1 hcan
    exact h.elim (absurd htimer) fun hstate => hstate.elim hinhibited hstale
  case stale =>
    have contexts : ∀ j, channelOf j (ended s.nv (stalenessExpiry s.nv i s.core) s).core
        = channelOf j (setChannel i (staled (channelOf i s.core)) s.core) := fun j =>
      congrArg (fun w : WatchUnit => w.channels.atD Channel.reset j) ((settle_only _).wu.trans ((luUpdate_only ..).wu.trans
        (stalenessExpiry_wu ((canStale_iff _).2 ⟨htimer, hinhibited, hstale⟩))))
    exact ⟨_, rfl, (contexts i).trans (channelOf_setChannel_same ..),
      fun j hj => (contexts j).trans (channelOf_setChannel_other hj ..)⟩
  case quiet =>
    have hcan : canStale (channelOf i s.core) = true := (canStale_iff _).2 ⟨htimer, by rcases hstate with h | h <;> simp [h]⟩
    refine ends_of (f := fun nv c => stalenessExpiry nv i c) rfl ?_
    have unscored : scoreChange s.nv i (channelOf i s.core) (staled (channelOf i s.core))
        (setChannel i (staled (channelOf i s.core)) s.core) = setChannel i (staled (channelOf i s.core)) s.core :=
      if_neg (by rcases hstate with h | h <;> simp [h, staled])
    have notAttributed : (channelOf i s.core).state ≠ .attributed := by rcases hstate with h | h <;> simp [h]
    simp only [stalenessExpiry, if_pos hcan, unscored, if_neg notAttributed]
    rfl
  case tripped =>
    have hcan : canStale (channelOf i s.core) = true := (canStale_iff _).2 ⟨htimer, by simp [hstate]⟩
    refine ends_of (f := fun nv c => stalenessExpiry nv i c) rfl ?_
    have scored : scoreChange s.nv i (channelOf i s.core) (staled (channelOf i s.core))
        (setChannel i (staled (channelOf i s.core)) s.core)
          = touchRun s.nv i (setChannel i (staled (channelOf i s.core)) s.core) :=
      if_pos (by simp [hstate, staled])
    have notAttributed : (channelOf i s.core).state ≠ .attributed := by simp [hstate]
    simp only [stalenessExpiry, if_pos hcan, scored, if_neg notAttributed]
    rw [hstate]
    rfl
  case attributed =>
    have hcan : canStale (channelOf i s.core) = true := (canStale_iff _).2 ⟨htimer, by simp [hstate]⟩
    refine ends_of (f := fun nv c => stalenessExpiry nv i c) rfl ?_
    have unscored : scoreChange s.nv i (channelOf i s.core) (staled (channelOf i s.core))
        (setChannel i (staled (channelOf i s.core)) s.core) = setChannel i (staled (channelOf i s.core)) s.core :=
      if_neg (by simp [hstate, staled])
    simp only [stalenessExpiry, if_pos hcan, unscored, if_pos hstate, hincident]
    rw [hstate]
    rfl

/-- Settles O48: by the incident, its state and its timer. -/
theorem confirmationCanExpire : Obligations.ConfirmationCanExpire := by
  refine fun n s => ⟨fun hnone => ?kept, fun i hi hstate htimer => ?expires⟩
  case kept =>
    refine ends_of (f := fun _ c => confirmationExpiry n c) rfl ?_
    unfold confirmationExpiry
    cases hi : incident? n s.core with
    | none => rfl
    | some i =>
      refine if_neg fun ⟨hstate, htimer⟩ => ?_
      obtain h | h := hnone i hi
      · exact h hstate
      · exact h htimer
  case expires =>
    refine ends_of (f := fun _ c => confirmationExpiry n c) rfl ?_
    rw [confirmationExpiry, hi]
    exact if_pos ⟨hstate, htimer⟩

end Sys2Proof.Proofs
end

section
/-! What the bytes of answers and frames read back as: STATUS (O24), frames (O13), and the readers of valves and sensors (O44, O45). -/

namespace Sys2Proof.Machine

open Sys2Proof.Claims

/-! ### Fields of a run of bytes -/

@[simp] theorem length_put8 (n : Nat) : (put8 n).length = 1 := by simp [put8]
@[simp] theorem length_put16 (n : Nat) : (put16 n).length = 2 := by simp [put16]
@[simp] theorem length_put32 (n : Nat) : (put32 n).length = 4 := by simp [put32]
@[simp] theorem length_putFlag (b : Bool) : (putFlag b).length = 1 := by simp [putFlag]
@[simp] theorem length_putTimer (t : Option Nat) : (putTimer t).length = 4 := by simp [putTimer]

/-- A field past the first bytes is read from the rest. -/
@[simp] theorem u8_append_of_le {xs : List Byte} {k : Nat} (h : xs.length ≤ k) (ys : List Byte) :
    u8 (xs ++ ys) k = u8 ys (k - xs.length) := by
  rw [u8, byteAt, List.getD_eq_getElem?_getD, List.getElem?_append_right h, ← List.getD_eq_getElem?_getD]
  rfl

@[simp] theorem u16_append_of_le {xs : List Byte} {k : Nat} (h : xs.length ≤ k) (ys : List Byte) :
    u16 (xs ++ ys) k = u16 ys (k - xs.length) := by
  rw [u16, u8_append_of_le h, u8_append_of_le (Nat.le_succ_of_le h), Nat.succ_sub h]
  rfl

@[simp] theorem u32_append_of_le {xs : List Byte} {k : Nat} (h : xs.length ≤ k) (ys : List Byte) :
    u32 (xs ++ ys) k = u32 ys (k - xs.length) := by
  rw [u32, u16_append_of_le h, u16_append_of_le (Nat.le_trans h (Nat.le_add_right k 2)), Nat.sub_add_comm h]
  rfl

/-- A number is read back from the bytes it was written in. -/
@[simp] theorem u8_put8_append {n : Nat} (h : n ≤ 255) (xs : List Byte) : u8 (put8 n ++ xs) 0 = n :=
  Nat.mod_eq_of_lt (Nat.lt_succ_of_le h)

@[simp] theorem u16_put16_append {n : Nat} (h : n ≤ 65535) (xs : List Byte) : u16 (put16 n ++ xs) 0 = n := by
  change n / 256 % 256 * 256 + n % 256 = n
  omega

@[simp] theorem u32_put32_append {n : Nat} (h : n ≤ 4294967295) (xs : List Byte) : u32 (put32 n ++ xs) 0 = n := by
  have high : u16 (put32 n ++ xs) 0 = n / 65536 := by
    rw [put32, List.append_assoc, u16_put16_append (by omega)]
  have low : u16 (put32 n ++ xs) 2 = n % 65536 := by
    rw [put32, List.append_assoc, u16_append_of_le (Nat.le_refl 2)]
    exact u16_put16_append (by omega) xs
  rw [u32, high, low]
  omega

@[simp] theorem u8_putFlag_append (b : Bool) (xs : List Byte) : u8 (putFlag b ++ xs) 0 = if b = true then 1 else 0 := by
  cases b <;> rfl

@[simp] theorem u8_put8 {n : Nat} (h : n ≤ 255) : u8 (put8 n) 0 = n := u8_put8_append h []

@[simp] theorem u16_put16 {n : Nat} (h : n ≤ 65535) : u16 (put16 n) 0 = n := u16_put16_append h []

@[simp] theorem u32_put32 {n : Nat} (h : n ≤ 4294967295) : u32 (put32 n) 0 = n := u32_put32_append h []

theorem length_flatMap_range {f : Nat → List Byte} {len : Nat} (hf : ∀ e, (f e).length = len) (n : Nat) :
    ((List.range n).flatMap f).length = n * len := by
  simp [List.length_flatMap, hf, List.map_const']

/-- A field of an item among items of one length. -/
theorem u8_flatMap_range {f : Nat → List Byte} {len : Nat} (hf : ∀ e, (f e).length = len) {e j : Nat} (hj : j < len) :
    ∀ {n : Nat}, e < n → u8 ((List.range n).flatMap f) (e * len + j) = u8 (f e) j
  | n + 1, he => by
    have whole : (List.range (n + 1)).flatMap f = (List.range n).flatMap f ++ f n := by
      rw [List.range_succ, List.flatMap_append, List.flatMap_singleton]
    have length := length_flatMap_range hf n
    rw [whole]
    obtain hlt | rfl := Nat.lt_or_eq_of_le (Nat.le_of_lt_succ he)
    · have inside : e * len + j < ((List.range n).flatMap f).length := by
        have : (e + 1) * len ≤ n * len := Nat.mul_le_mul_right len hlt
        rw [length]
        rw [Nat.succ_mul] at this
        omega
      rw [u8, byteAt, List.getD_eq_getElem?_getD, List.getElem?_append_left inside, ← List.getD_eq_getElem?_getD]
      exact u8_flatMap_range hf hj hlt
    · rw [u8_append_of_le (by omega), length, Nat.add_sub_cancel_left]

theorem Sparse.mem_of_at? {α : Type} {k : Nat} {v : α} : ∀ {m : Sparse α}, m.at? k = some v → (k, v) ∈ m
  | (i, a) :: rest, h => by
    rw [Sparse.at?] at h
    split at h
    · next hi =>
      cases h
      exact hi ▸ List.mem_cons_self
    · exact List.mem_cons_of_mem _ (Sparse.mem_of_at? h)

/-! ### Codes fit a byte -/

theorem Mode.code_le (m : Mode) : m.code ≤ 255 := by cases m <;> decide
theorem BankId.code_le (x : BankId) : x.code ≤ 255 := by cases x <;> decide
theorem CompileState.code_le (x : CompileState) : x.code ≤ 255 := by cases x <;> simp [CompileState.code]
theorem CompileResult.code_le (x : CompileResult) : x.code ≤ 255 := by cases x <;> decide
theorem IncidentState.code_le (x : IncidentState) : x.code ≤ 255 := by cases x <;> decide
theorem Position.code_le (x : Position) : x.code ≤ 255 := by cases x <;> decide
theorem ValveMark.code_le (x : ValveMark) : x.code ≤ 255 := by cases x <;> decide
theorem ChannelState.code_le (x : ChannelState) : x.code ≤ 255 := by cases x <;> decide
theorem Phase.code_le (x : Phase) : x.code ≤ 255 := by cases x <;> decide
theorem Action.code_le (x : Action) : x.code ≤ 255 := by cases x <;> decide
theorem actionCode_le (x : Option Action) : actionCode x ≤ 255 := by
  cases x with
  | none => decide
  | some a => exact a.code_le
theorem markCode_le : ∀ x : Option Mark, markCode x ≤ 255
  | none | some .corrected | some .poisoned => by decide

theorem toNat_le_of_word16 (x : Word16) : x.toNat ≤ 65535 := Nat.le_of_lt_succ x.isLt
theorem toNat_le_of_word32 (x : Word32) : x.toNat ≤ 4294967295 := Nat.le_of_lt_succ x.isLt

/-! ### The blocks with the load window closed -/

@[simp] theorem valveOf_closed (v : Nat) (c : Core) : valveOf v (closed c) = valveOf v c := rfl
@[simp] theorem motionOf_closed (v : Nat) (c : Core) : motionOf v (closed c) = motionOf v c := rfl
@[simp] theorem channelOf_closed (i : Nat) (c : Core) : channelOf i (closed c) = channelOf i c := rfl
@[simp] theorem markAt_closed (p : Place) (c : Core) : markAt (closed c) p = markAt c p := rfl
@[simp] theorem closed_ts_dynamic (c : Core) : (closed c).ts.dynamic = c.ts.dynamic := rfl

/-! ### STATUS (09 R178) -/

theorem length_statusEntry (c : Core) (e : Nat) : (statusEntry c e).length = 2 := by
  unfold statusEntry
  split <;> rfl

/-- The fields of STATUS ahead of its incident entries. -/
def statusHead (nv : Nv) (r : Ring) (c : Core) : List Byte :=
  put8 c.ic.mode.code ++ putFlag c.ts.valid ++ put16 nv.generation.toNat ++ put8 nv.selector.code
    ++ put8 c.ts.compile.code ++ put8 (match c.ts.last with
      | some r => r.code
      | none => 255)
    ++ putFlag c.ts.lock ++ putFlag c.ic.alert ++ put8 c.ic.table.length ++ put8 c.ds.slots.length
    ++ put8 c.log.notices.length ++ put32 c.log.time.toNat
    ++ put16 r.badFrame.toNat ++ put16 r.overflow.toNat ++ put16 r.refusedSource.toNat ++ put16 c.log.lost.toNat
    ++ put16 c.ts.corrections.toNat ++ putFlag r.east.up ++ putFlag r.west.up

theorem statusData_eq (nv : Nv) (r : Ring) (c : Core) :
    statusData nv r c = statusHead nv r c ++ (List.range 16).flatMap (statusEntry c) := rfl

theorem length_statusHead (nv : Nv) (r : Ring) (c : Core) : (statusHead nv r c).length = 28 := by simp [statusHead]

theorem length_statusData (nv : Nv) (r : Ring) (c : Core) : (statusData nv r c).length = 60 := by
  rw [statusData_eq, List.length_append, length_statusHead, length_flatMap_range (length_statusEntry c)]

/-- An entry's two bytes stand behind the head, two for each entry before it. -/
theorem u8_statusData_entry (nv : Nv) (r : Ring) (c : Core) {e j : Nat} (he : e < 16) (hj : j < 2) :
    u8 (statusData nv r c) (28 + (2 * e + j)) = u8 (statusEntry c e) j := by
  have behind : (statusHead nv r c).length ≤ 28 + (2 * e + j) := by
    rw [length_statusHead]
    omega
  rw [statusData_eq, u8_append_of_le behind, length_statusHead, Nat.add_sub_cancel_left, Nat.mul_comm 2 e]
  exact u8_flatMap_range (length_statusEntry c) hj he

/-! ### Valves (08 R172, R173) -/

section
variable {nv : Nv} {v : Nat} {c : Core}

theorem length_slotBytes (x : Option (Nat × Motion)) : (slotBytes x).length = 14 := by
  cases x <;> simp [slotBytes]

/-- The fields of READ VALVE ahead of its slot fields. -/
def valveHead (nv : Nv) (v : Nat) (c : Core) : List Byte :=
  put16 v ++ put8 (valveOf v c).position.code ++ put8 (valveOf v c).status.code ++ put8 (valveOf v c).claims
    ++ put8 (valveOf v c).faults ++ put8 (valveOf v c).token
    ++ put8 (actionCode (valveOf v c).lastAction) ++ putFlag (nv.persistent.has v) ++ putFlag (c.ts.dynamic.has v)
    ++ put8 (markCode (markAt c ⟨.valve, v⟩))

theorem valveData_eq (nv : Nv) (v : Nat) (c : Core) : valveData nv v c = valveHead nv v c ++ slotBytes (motionOf v c) := rfl

theorem length_valveHead : (valveHead nv v c).length = 11 := by simp [valveHead]

theorem doClearFault_failed {args : List Byte} (hv : u16 args 0 ≤ 1023) (h : (valveOf (u16 args 0) c).status = .failed) :
    doClearFault args c = (plain .done, setValve (u16 args 0) { valveOf (u16 args 0) c with status := .normal } c) := by
  rw [doClearFault, if_neg (Nat.not_lt.2 hv), if_pos h]

theorem doClearFault_other {args : List Byte} (hv : u16 args 0 ≤ 1023) (h : (valveOf (u16 args 0) c).status ≠ .failed) :
    doClearFault args c = (plain (.refused .state), c) := by
  rw [doClearFault, if_neg (Nat.not_lt.2 hv), if_neg h]

end

/-! ### Frames (01 R4, 09 R187) -/

section
variable {h : Header} {kind : Byte} {body : List Byte}

/-- A frame's header and body, which its check value covers. -/
def frameText (h : Header) (kind : Byte) (body : List Byte) : List Byte :=
  [h.dest, h.source, kind, h.sequence, BitVec.ofNat 8 body.length] ++ body

theorem mkFrame_eq (h : Header) (kind : Byte) (body : List Byte) :
    mkFrame h kind body = frameText h kind body ++ put16 (crc16 (frameText h kind body)).toNat := rfl

theorem length_frameText : (frameText h kind body).length = 5 + body.length :=
  Nat.add_comm body.length 5

theorem length_mkFrame : (mkFrame h kind body).length = 7 + body.length := by
  rw [mkFrame_eq, List.length_append, length_frameText, length_put16]
  omega

theorem u8_mkFrame_length (hlength : body.length ≤ 240) : u8 (mkFrame h kind body) 4 = body.length :=
  Nat.mod_eq_of_lt (by omega)

theorem take_mkFrame : (mkFrame h kind body).take (5 + body.length) = frameText h kind body := by
  rw [mkFrame_eq, ← length_frameText (h := h) (kind := kind), List.take_left]

theorem frameBody_mkFrame (hlength : body.length ≤ 240) : frameBody (mkFrame h kind body) = body := by
  rw [frameBody, frameLength, u8_mkFrame_length hlength, mkFrame_eq]
  exact List.take_left

theorem frameOk_mkFrame (hlength : body.length ≤ 240) (hdest : stationOk h.dest = true ∨ h.dest = 255)
    (hsource : stationOk h.source = true) : frameOk (mkFrame h kind body) = true := by
  rw [frameOk_iff, u8_mkFrame_length hlength, length_mkFrame, take_mkFrame, mkFrame_eq,
    u16_append_of_le (Nat.le_of_eq length_frameText), length_frameText, Nat.sub_self, u16_put16 (toNat_le_of_word16 _)]
  refine ⟨by omega, hlength, rfl, rfl, ?_, (stationOk_iff _).1 hsource⟩
  obtain hstation | hall := hdest
  · exact .inl ((stationOk_iff _).1 hstation)
  · exact .inr (congrArg BitVec.toNat hall)

end

end Sys2Proof.Machine

namespace Sys2Proof.Proofs

open Sys2Proof Sys2Proof.Machine Sys2Proof.Claims

theorem ruled_clearFault (q : Request) : Ruled (.clearFault q) q 0x32 2 fun _ c => doClearFault q.args c :=
  ⟨fun _ => rfl, rfl, rfl, fun _ _ _ => rfl⟩

theorem ruled_readValve (q : Request) : Ruled (.readValve q) q 0x33 2 fun nv c => (replyReadValve nv q.args c, c) :=
  ⟨fun _ => rfl, rfl, rfl, fun _ _ _ => rfl⟩

theorem ruled_readSensor (q : Request) : Ruled (.readSensor q) q 0x34 2 fun _ c => (replyReadSensor q.args c, c) :=
  ⟨fun _ => rfl, rfl, rfl, fun _ _ _ => rfl⟩

theorem answers_status {q : Request} {s : State} (ht : TakenNow q s) (hargs : q.args = []) :
    Answers (.status q) q 0x01 s .done (statusData s.nv s.ring (closed s.core)) s.nv (closed s.core) :=
  answers_of_carry rfl ht (carry_rightLength rfl (List.length_eq_zero_iff.2 hargs))

/-- Settles O24: each field of the answer is read behind those before it. -/
theorem statusReportsThePart : Obligations.StatusReportsThePart := by
  refine fun q s ht => ⟨fun hargs => answers_of_carry rfl ht (carry_wrongLength rfl (mt List.length_eq_zero_iff.1 hargs)),
    fun hargs htable hslots hnotices hnumbers => ⟨_, answers_status ht hargs, length_statusData .., ?_⟩⟩
  have htable : s.core.ic.table.length ≤ 255 := by omega
  have hslots : s.core.ds.slots.length ≤ 255 := by omega
  have hnotices : s.core.log.notices.length ≤ 255 := by omega
  have entry (e j : Nat) (he : e < 16) (hj : j < 2) := u8_statusData_entry s.nv s.ring (closed s.core) he hj
  refine ⟨?_, ?_, ?_, ?_, ?_, ?last, ?_, ?_, ?_, ?_, ?_, ?_, ?_, ?_, ?_, ?_, ?_, ?_, ?_,
    fun e he => ⟨fun i hi => ?live, fun hnone => ?free⟩⟩
  case last =>
    unfold statusData
    cases hlast : s.core.ts.last <;> simp [closed, hlast, CompileResult.code_le]
  case live =>
    have bytes : statusEntry (closed s.core) e = put8 i.number ++ put8 i.state.code := by
      rw [statusEntry, show (closed s.core).ic.table.at? e = some i from hi]
    have hnumber : i.number ≤ 255 := hnumbers (e, i) (Sparse.mem_of_at? hi)
    refine ⟨(entry e 0 he (by omega)).trans ?_, ?_⟩
    · rw [bytes, u8_put8_append hnumber]
    · rw [show 29 + 2 * e = 28 + (2 * e + 1) by omega, entry e 1 he (by omega), bytes]
      simp [IncidentState.code_le]
  case free =>
    have bytes : statusEntry (closed s.core) e = put8 0 ++ put8 0 := by
      rw [statusEntry, show (closed s.core).ic.table.at? e = none from hnone]
    refine ⟨(entry e 0 he (by omega)).trans ?_, ?_⟩
    · rw [bytes]
      rfl
    · rw [show 29 + 2 * e = 28 + (2 * e + 1) by omega, entry e 1 he (by omega), bytes]
      rfl
  all_goals
    unfold statusData
    simp [closed, Mode.code_le, BankId.code_le, CompileState.code_le, toNat_le_of_word16, toNat_le_of_word32, htable, hslots,
      hnotices]

/-- Settles O13: a frame's text is what its check value covers, and each field of a body is read behind those before it. -/
theorem originatedFramesReadBack : Obligations.OriginatedFramesReadBack := by
  refine ⟨fun h kind body hlength hdest hsource => ⟨frameOk_mkFrame hlength hdest hsource, rfl, rfl, rfl, rfl,
      frameBody_mkFrame hlength⟩, fun d hchannel hstroke htoken => ?drive, fun a code reason h => ?answer,
    fun n code h hincident hvalve hsegment hcode => ?notice, by decide, by decide, by decide, by decide, by decide, by decide,
    by decide, by decide, by decide, by decide, by decide, by decide, by decide, by decide, by decide, by decide, by decide,
    fun i => rfl, fun k => rfl⟩
  case drive =>
    have action : u8 d.body 1 = d.action.code := by simp [Drive.body, Action.code_le]
    refine ⟨by simp [Drive.body], by simp [Drive.body, hchannel], ?_, by simp [Drive.body, hstroke],
      by simp [Drive.body, htoken]⟩
    rw [action]
    cases d.action <;> rfl
  case answer =>
    have codes : ∀ x ∈ [(Result.done, 0, 0), (.started, 1, 0), (.busy, 2, 0), (.badRequest, 3, 0),
          (.wrongMode, 4, 0), (.notFound, 5, 0), (.locked, 6, 0), (.refused .covered, 7, 1), (.refused .full, 7, 2),
          (.refused .noTables, 7, 3), (.refused .state, 7, 4), (.noWindow, 8, 0)],
        x.1.code = x.2.1 ∧ x.1.reason = x.2.2 := by decide
    obtain ⟨hcode, hreason⟩ : a.result.code = code ∧ a.result.reason = reason := codes _ h
    rw [← hcode, ← hreason]
    rfl
  case notice =>
    have codes : ∀ x ∈ [(NoticeKind.deviceReset, 0x01), (.modeChanged, 0x02), (.compileDone, 0x10), (.swapDone, 0x11),
          (.tableError, 0x12), (.burstSeen, 0x20), (.locateEmpty, 0x21), (.tableFull, 0x22), (.incidentState, 0x30),
          (.planReady, 0x31), (.valveFault, 0x40), (.lateReport, 0x41), (.reopenSkipped, 0x42), (.valveDisturbed, 0x43),
          (.sensorStale, 0x50)], x.1.code = x.2 := by decide
    obtain rfl : n.kind.code = code := codes _ h
    have kind : n.kind.code ≤ 255 := by cases n.kind <;> decide
    refine ⟨by simp [Notice.body], ?_, ?_, ?_, ?_, ?_, ?_⟩ <;>
      simp [Notice.body, kind, toNat_le_of_word32, hincident, hvalve, hsegment, hcode]

/-- Settles O44: CLEAR FAULT by the valve's status; READ VALVE field by field, the slot fields by the motion in flight. -/
theorem valveRequests : Obligations.ValveRequests := by
  refine ⟨fun q s ht => ⟨(ruled_clearFault q).wrongLength ht, ?clear⟩, fun q s ht => ⟨(ruled_readValve q).wrongLength ht, ?read⟩⟩
  case clear =>
    rintro hlength v rfl
    refine ⟨fun hv => (ruled_clearFault q).answers ht hlength (if_pos hv),
      fun hv hstatus => (ruled_clearFault q).answers ht hlength (doClearFault_other (c := closed s.core) hv hstatus),
      fun hv hstatus => ⟨s.core.ds.valves.putD .reset (u16 q.args 0) { valveOf (u16 q.args 0) s.core with status := .normal },
        fun w => ?_, (ruled_clearFault q).answers ht hlength (doClearFault_failed (c := closed s.core) hv hstatus)⟩⟩
    split
    · next h => rw [h, Sparse.atD_putD_same]
    · next h => exact Sparse.atD_putD_other _ _ _ h
  case read =>
    rintro hlength v x rfl rfl
    refine ⟨fun hv => (ruled_readValve q).answers ht hlength (congrArg (·, closed s.core) (if_pos hv)), fun hv =>
      ⟨valveData s.nv (u16 q.args 0) (closed s.core),
        (ruled_readValve q).answers ht hlength (congrArg (·, closed s.core) (if_neg (Nat.not_lt.2 hv))), ?_⟩⟩
    have hv : u16 q.args 0 ≤ 65535 := by omega
    rw [valveData_eq]
    generalize hd : slotBytes (motionOf (u16 q.args 0) (closed s.core)) = slot
    have slots (k : Nat) : u8 (valveHead s.nv (u16 q.args 0) (closed s.core) ++ slot) (11 + k) = u8 slot k := by
      simp [length_valveHead]
    have timers (k : Nat) : u32 (valveHead s.nv (u16 q.args 0) (closed s.core) ++ slot) (11 + k) = u32 slot k := by
      simp [length_valveHead]
    refine ⟨by rw [List.length_append, length_valveHead, ← hd, length_slotBytes], ?_, ?_, ?_, fun h => ?claims,
      fun h => ?faults, fun h => ?token, ?action, ?_, ?_, ?mark, fun hnone => ?idle, fun k m hmotion hk htoken howner => ?busy⟩
    case action =>
      have action : u8 (valveHead s.nv (u16 q.args 0) (closed s.core) ++ slot) 7
          = actionCode (valveOf (u16 q.args 0) s.core).lastAction := by
        simp [valveHead, actionCode_le]
      rw [action]
      obtain h | ⟨a, h⟩ := Option.eq_none_or_eq_some (valveOf (u16 q.args 0) s.core).lastAction
      · rw [h]; rfl
      · rw [h]; cases a <;> rfl
    case mark =>
      have mark : u8 (valveHead s.nv (u16 q.args 0) (closed s.core) ++ slot) 10
          = markCode (markAt s.core ⟨.valve, u16 q.args 0⟩) := by
        simp [valveHead, markCode_le]
      rw [mark]
      obtain h | ⟨a, h⟩ := Option.eq_none_or_eq_some (markAt s.core ⟨.valve, u16 q.args 0⟩)
      · rw [h]; rfl
      · rw [h]; cases a <;> rfl
    case idle =>
      have none : slot = slotBytes none := by rw [← hd]; exact congrArg slotBytes hnone
      subst none
      have zeros : ∀ j ≤ 5, 1 ≤ j → u8 (slotBytes none) j = 0 := by decide
      refine ⟨slots 0, fun k hlow hhigh => ?_, timers 6, timers 10⟩
      obtain ⟨j, rfl⟩ := Nat.exists_eq_add_of_le (Nat.le_of_succ_le hlow)
      exact (slots j).trans (zeros j (by omega) (by omega))
    case busy =>
      have hk : k ≤ 255 := by omega
      have moving : slot = slotBytes (some (k, m)) := by rw [← hd]; exact congrArg slotBytes hmotion
      subst moving
      refine ⟨(slots 0).trans ?_, (slots 1).trans ?_, (slots 2).trans ?_, (slots 3).trans ?_, (slots 4).trans ?_,
        (slots 5).trans ?_, fun h => (timers 6).trans ?_, fun h => (timers 10).trans ?_⟩
      case refine_7 => simp [slotBytes, putTimer, Config.none32, h]
      case refine_8 => simp [slotBytes, putTimer, Config.none32, h]
      all_goals simp [slotBytes, hk, htoken, howner, Phase.code_le, Action.code_le]
    case claims => simp [valveHead, h]
    case faults => simp [valveHead, h]
    case token => simp [valveHead, h]
    all_goals simp [valveHead, hv, Position.code_le, ValveMark.code_le]

/-- Settles O45: field by field, each number where its range holds it. -/
theorem readSensorReportsTheContext : Obligations.ReadSensorReportsTheContext := by
  refine fun q s ht => ⟨(ruled_readSensor q).wrongLength ht,
    fun hlength hi => (ruled_readSensor q).answers ht hlength (congrArg (·, closed s.core) (if_pos hi)), ?_⟩
  rintro hlength i ch rfl hi rfl
  refine ⟨sensorData (u16 q.args 0) (channelOf (u16 q.args 0) s.core),
    (ruled_readSensor q).answers ht hlength (congrArg (·, closed s.core) (if_neg (Nat.not_lt.2 hi))), by simp [sensorData],
    ?_, ?_, ?_, fun h => ?baseline, fun h => ?deviation, fun h => ?_, fun h => ?_, fun h => ?timer, fun h => ?_,
    fun h => ?home, ?_, fun h => ?_, fun h => ?_⟩
  case baseline =>
    have whole : (channelOf (u16 q.args 0) s.core).baseline ≤ 4294967295 := by omega
    have part : (channelOf (u16 q.args 0) s.core).baseline / 16 ≤ 65535 := by omega
    constructor <;> simp [sensorData, whole, part]
  case deviation =>
    have wide : (channelOf (u16 q.args 0) s.core).deviation ≤ 65535 := by omega
    simp [sensorData, wide]
  case timer => simp [sensorData, putTimer, Config.none32, h]
  case home => simp [sensorData, Config.none16, h]
  all_goals
    have hi : u16 q.args 0 ≤ 65535 := by omega
    simp [sensorData, ChannelState.code_le, hi]
  all_goals simp [h]

end Sys2Proof.Proofs
end

section
/-! The operations that commands share: checked reads (O52), and notices and the changes of an incident's state (O54). -/

namespace Sys2Proof.Machine

open Sys2Proof.Claims

/-! ### Reads of a place (02 R29-R31) -/

section
variable {nv : Nv} {p : Place} {c : Core}

theorem touchPlace_sound (h : nv.active.wrongAt p = none) : touchPlace nv p c = c := by rw [touchPlace, h]

theorem touchPlace_poisoned (h : markAt c p = some .poisoned) : touchPlace nv p c = c := by
  unfold touchPlace
  rw [h]
  cases nv.active.wrongAt p <;> rfl

theorem touchPlace_corrected (hw : nv.active.wrongAt p = some .one) (hm : markAt c p = some .corrected) :
    touchPlace nv p c = c := by
  rw [touchPlace, hw, hm]

/-- The places of segments are named in the segment index field, all others in the valve field. -/
theorem tableError_eq {k v g : Nat} (hv : v = if p.area = .segment ∨ p.area = .segmentIndex then 65535 else p.index)
    (hg : g = if p.area = .segment ∨ p.area = .segmentIndex then p.index else 65535) :
    tableError p k c = notifyTableError v g (16 * p.area.code + k) c := by
  subst hv hg
  unfold tableError
  cases p.area <;> rfl

/-- One wrong bit found first: the place is CORRECTED and counted. -/
theorem touchPlace_one (hw : nv.active.wrongAt p = some .one) (hm : markAt c p = none) :
    touchPlace nv p c = tableError p 1 { c with ts := { c.ts with
      map := c.ts.map.put p.key .corrected, corrections := satInc c.ts.corrections } } := by
  rw [touchPlace, hw, hm]
  rfl

/-- Two wrong bits found first: the place is POISONED, and what it bears on is listed. -/
theorem touchPlace_two (hw : nv.active.wrongAt p = some .two) (hm : markAt c p ≠ some .poisoned) :
    touchPlace nv p c = tableError p 2 (markDirty (bearsOn nv p c)
      { c with ts := { c.ts with map := c.ts.map.put p.key .poisoned } }) := by
  rw [touchPlace, hw]
  cases hmark : markAt c p with
  | none => rfl
  | some m =>
    cases m with
    | corrected => rfl
    | poisoned => exact absurd hmark hm

end

@[simp] theorem notifyTableError_ts (v g k : Nat) (c : Core) : (notifyTableError v g k c).ts = c.ts := by
  unfold notifyTableError
  dsimp only
  repeat' split
  all_goals rfl

@[simp] theorem tableError_ts (p : Place) (k : Nat) (c : Core) : (tableError p k c).ts = c.ts := by
  unfold tableError
  cases p.area <;> exact notifyTableError_ts ..

/-- The condition map after a read: only the place read can have a new mark. -/
theorem map_touchPlace (nv : Nv) (p : Place) (c : Core) :
    (touchPlace nv p c).ts.map = c.ts.map ∨ ∃ m, (touchPlace nv p c).ts.map = c.ts.map.put p.key m := by
  cases hw : nv.active.wrongAt p with
  | none => exact .inl (by rw [touchPlace_sound hw])
  | some w =>
    by_cases hp : markAt c p = some .poisoned
    · exact .inl (by rw [touchPlace_poisoned hp])
    · cases w with
      | two => exact .inr ⟨.poisoned, by rw [touchPlace_two hw hp, tableError_ts]; rfl⟩
      | one =>
        cases hm : markAt c p with
        | none => exact .inr ⟨.corrected, by rw [touchPlace_one hw hm, tableError_ts]⟩
        | some m =>
          cases m with
          | poisoned => exact absurd hm hp
          | corrected => exact .inl (by rw [touchPlace_corrected hw hm])

theorem markAt_touchPlace_other (nv : Nv) {p q : Place} (h : q.key ≠ p.key) (c : Core) :
    markAt (touchPlace nv p c) q = markAt c q := by
  unfold markAt
  obtain heq | ⟨m, heq⟩ := map_touchPlace nv p c
  · rw [heq]
  · rw [heq, Sparse.at?_put_other _ _ h]

/-! ### Reads of entries and index records (02 R28) -/

section
variable {nv : Nv} {t : TableName} {i : Nat} {c : Core}

theorem poisonedAt_iff (c : Core) (p : Place) : poisonedAt c p = true ↔ markAt c p = some .poisoned := beq_iff_eq

theorem touchEntry_absent (h : c.ts.valid = false ∨ (nv.active.tables.of t).at? i = none) : touchEntry nv t i c = c := by
  refine if_neg fun hread => ?_
  obtain ⟨hvalid, hhas⟩ := Bool.and_eq_true_iff.1 hread
  obtain h | h := h
  · exact Bool.noConfusion (h.symm.trans hvalid)
  · rw [Sparse.has, h] at hhas
    exact Bool.noConfusion hhas

theorem seen_absent (h : c.ts.valid = false ∨ (nv.active.tables.of t).at? i = none) : seen nv t i c = .absent := by
  unfold seen
  obtain h | h := h
  · rw [if_neg (by simp [h])]
  · rw [h]
    simp

theorem touchEntry_present {r : Record} (hvalid : c.ts.valid = true) (hr : (nv.active.tables.of t).at? i = some r) :
    touchEntry nv t i c = touchPlace nv ⟨t.area, i⟩ c := if_pos (by rw [hvalid, Sparse.has, hr]; rfl)

theorem seen_present {r : Record} (hvalid : c.ts.valid = true) (hr : (nv.active.tables.of t).at? i = some r) :
    seen nv t i c = if markAt c ⟨t.area, i⟩ = some .poisoned then .poisoned else .value r := by
  unfold seen
  rw [if_pos hvalid, hr]
  simp only [poisonedAt_iff]

theorem touchIndex_valid (a : Area) (hvalid : c.ts.valid = true) : touchIndex nv a i c = touchPlace nv ⟨a, i⟩ c := if_pos hvalid

theorem touchIndex_none (a : Area) (hvalid : c.ts.valid = false) : touchIndex nv a i c = c := if_neg (by simp [hvalid])

theorem indexPoisoned_iff (a : Area) (hvalid : c.ts.valid = true) :
    indexPoisoned a i c = true ↔ markAt c ⟨a, i⟩ = some .poisoned := by
  rw [indexPoisoned, hvalid, Bool.true_and, poisonedAt_iff]

end

/-! ### Notices (09 R185) -/

section
variable {c : Core}

theorem notify_room {kind : NoticeKind} {n v g code : Nat} (h : c.log.notices.length < 32) : notify kind n v g code c =
    { c with log := { c.log with notices := c.log.notices ++ [⟨kind, c.log.time, n, v, g, code⟩] } } := if_pos h

theorem notify_full {kind : NoticeKind} {n v g code : Nat} (h : 32 ≤ c.log.notices.length) : notify kind n v g code c =
    { c with log := { c.log with lost := satInc c.log.lost } } := if_neg (Nat.not_lt.2 h)

theorem notifyTableError_room {v g code : Nat} (h : c.log.notices.length < 32) : notifyTableError v g code c =
    { c with log := { c.log with
      notices := insertAt c.log.seam ⟨.tableError, c.log.time, 0, v, g, code⟩ c.log.notices, seam := c.log.seam + 1 } } :=
  if_pos h

theorem notifyTableError_full {v g code : Nat} (h : 32 ≤ c.log.notices.length) : notifyTableError v g code c =
    if c.log.seam < c.log.notices.length then
      { c with log := { c.log with
        notices := (insertAt c.log.seam ⟨.tableError, c.log.time, 0, v, g, code⟩ c.log.notices).dropLast
        lost := satInc c.log.lost, seam := c.log.seam + 1 } }
    else { c with log := { c.log with lost := satInc c.log.lost } } := if_neg (Nat.not_lt.2 h)

theorem insertAt_length {α : Type} (x : α) (before after : List α) :
    insertAt before.length x (before ++ after) = before ++ x :: after := by
  rw [insertAt, List.take_left, List.drop_left]

end

/-! ### Changes of an incident (06 R124, R125) -/

theorem live_changeIncident (n : Nat) (f : Incident → Incident) (c : Core) :
    live (changeIncident n f c) = (live c).map fun i => if i.number = n then f i else i := by
  simp only [live, changeIncident, List.map_map]
  refine List.map_congr_left fun p _ => ?_
  simp only [Function.comp]
  split <;> rfl

/-- A change that leaves the number is seen at the incident, if it is live. -/
theorem incident?_changeIncident {n : Nat} {f : Incident → Incident} (hf : ∀ i, (f i).number = i.number) (c : Core) :
    incident? n (changeIncident n f c) = (incident? n c).map f := by
  have same : ((fun i : Incident => i.number == n) ∘ fun i => if i.number = n then f i else i) = fun i => i.number == n := by
    funext i
    simp only [Function.comp]
    split
    · rw [hf]
    · rfl
  rw [incident?, live_changeIncident, List.find?_map, same]
  unfold incident?
  cases h : (live c).find? fun i => i.number == n with
  | none => rfl
  | some i =>
    have number : i.number = n := by simpa using List.find?_some h
    simp [number]

theorem incident?_changeIncident_some {n : Nat} {f : Incident → Incident} {i : Incident} {c : Core}
    (h : incident? n c = some i) (hf : ∀ i, (f i).number = i.number) : incident? n (changeIncident n f c) = some (f i) := by
  rw [incident?_changeIncident hf, h]
  rfl

/-- An incident's change of state is reported with its own fields. -/
theorem changeState_eq {n : Nat} {st : IncidentState} {i : Incident} {c : Core} (h : incident? n c = some i) :
    changeState n st c = levelAlert (notify .incidentState n (if st = .stalled then stallCode i.stall else 65535) i.burst
      st.code (changeIncident n (fun x => { x with state := st }) c)) := by
  rw [changeState, reportState, incident?_changeIncident_some (f := fun i => { i with state := st }) h fun _ => rfl]
  rfl

/-- What a change of state does but for the notice and the level of ALERT. -/
theorem changeState_table {n : Nat} {st : IncidentState} (c : Core) :
    (changeState n st c).ic.table = c.ic.table.map fun p => if p.2.number = n then (p.1, { p.2 with state := st }) else p := by
  unfold changeState reportState
  cases incident? n (changeIncident n (fun i => { i with state := st }) c) <;>
    simp only [levelAlert_ic_table, notify_ic] <;> rfl

theorem alerts_iff (x : IncidentState) : x.alerts = true ↔ x = .awaitingConsent ∨ x = .unconfirmed ∨ x = .stalled := by
  cases x <;> simp [IncidentState.alerts]

theorem live_levelAlert (c : Core) : live (levelAlert c) = live c := rfl

theorem levelAlert_alert_iff (c : Core) : (levelAlert c).ic.alert = true ↔ ∃ x ∈ live (levelAlert c),
    x.state = .awaitingConsent ∨ x.state = .unconfirmed ∨ x.state = .stalled := by
  rw [levelAlert_ic_alert, List.any_eq_true, live_levelAlert]
  simp only [alerts_iff]

theorem planRunning_iff (o : Nat) (c : Core) : planRunning o c = true ↔ ∃ kind w, c.ip.engine = .running o kind w := by
  unfold planRunning
  cases c.ip.engine with
  | idle => simp
  | running order kind w => simp

theorem isComplete_iff (i : Incident) (c : Core) : isComplete i c = true ↔ i.state = .isolating
    ∧ (∀ e ∈ i.closure, e.progress ≠ .queued ∧ e.progress ≠ .inMotion) ∧ i.order ∉ c.ip.queue
    ∧ ∀ kind w, c.ip.engine ≠ .running i.order kind w := by
  have running : (!planRunning i.order c) = true ↔ ∀ kind w, c.ip.engine ≠ .running i.order kind w := by
    rw [Bool.not_eq_true', ← Bool.not_eq_true, planRunning_iff]
    simp
  simp only [isComplete, Bool.and_eq_true, running, beq_iff_eq, List.all_eq_true, ended_iff, and_assoc]
  simp

section
variable {nv : Nv} {n : Nat} {i : Incident} {c : Core}

theorem completionTest_live (h : incident? n c = some i) : completionTest nv n c =
    if isComplete i c then
      if i.attributed = [] then changeState n .isolated (changeIncident n (fun x => { x with unverified := true }) c)
      else changeState n .confirming (changeIncident n (fun x => { x with timer := some (nv.settings.confirmation * 1000) }) c)
    else c := by
  rw [completionTest, h]

end

end Sys2Proof.Machine

namespace Sys2Proof.Proofs

open Sys2Proof Sys2Proof.Machine Sys2Proof.Claims

/-- Settles O52: by what the check code shows and the mark before the read. -/
theorem readsMarkTheConditionMap : Obligations.ReadsMarkTheConditionMap := by
  refine ⟨fun nv p c => ⟨touchPlace_sound, touchPlace_poisoned, touchPlace_corrected, fun v g hv hg => ⟨fun hw hm => ?one,
      fun hw hm => ?two⟩, fun hw hm => ?corrected, fun hw hm => ⟨(markAt_touchPlace nv p c).2 (.inl hw), ?kept⟩,
      fun q hq => markAt_touchPlace_other nv hq c⟩,
    fun nv t i c => ⟨fun h => ⟨touchEntry_absent h, seen_absent h⟩, fun r hvalid hr => ?entry⟩,
    fun nv i c hwf => ?bears, fun nv a i c => ⟨fun hvalid => ⟨touchIndex_none a hvalid, ?noneIndex⟩, fun hvalid => ?index⟩,
    fun nv t c hwf => ?present⟩
  case one => rw [touchPlace_one hw hm, tableError_eq hv hg, satInc_eq]
  case two => rw [touchPlace_two hw hm, tableError_eq hv hg]
  case corrected =>
    rw [touchPlace_one hw hm, markAt, tableError_ts, satInc_eq]
    exact ⟨Sparse.at?_put_same .., rfl⟩
  case kept =>
    rw [touchPlace_two hw hm, tableError_ts]
    rfl
  case entry =>
    have valid : (touchPlace nv ⟨t.area, i⟩ c).ts.valid = true := (touchPlace_only ..).valid.trans hvalid
    refine ⟨touchEntry_present hvalid hr, fun hp => (seen_present hvalid hr).trans (if_pos hp),
      fun hp => (seen_present hvalid hr).trans (if_neg hp), fun h => ?_, fun hw hm => ?_⟩
    · rw [touchEntry_present hvalid hr]
      exact (seen_present valid hr).trans (if_pos ((markAt_touchPlace ..).2 h))
    · rw [touchEntry_present hvalid hr]
      exact (seen_present valid hr).trans (if_neg fun h => ((markAt_touchPlace ..).1 h).elim hw hm)
  case bears =>
    refine ⟨rfl, rfl, rfl, rfl, fun r hr => by simp only [bearsOn, hr], fun hnone => by simp only [bearsOn, hnone], rfl,
      nv.active.tables.associations.filter fun q => q.2.association.sensor == i && !poisonedAt c ⟨.association, q.1⟩,
      List.pairwise_map.1 (Sparse.pairwise_filter hwf _), fun a r => ?_, rfl⟩
    rw [List.mem_filter, Sparse.mem_iff_at?_of_wf hwf]
    simp
  case noneIndex => rw [indexPoisoned, hvalid, Bool.false_and]
  case index =>
    refine ⟨touchIndex_valid a hvalid, indexPoisoned_iff a hvalid, ?_⟩
    rw [touchIndex_valid a hvalid, indexPoisoned_iff a ((touchPlace_only ..).valid.trans hvalid)]
    exact markAt_touchPlace ..
  case present =>
    unfold presentIn
    cases c.ts.valid with
    | false => simp
    | true =>
      refine ⟨fun i => ?_, (Sparse.pairwise_indexes _ hwf).1⟩
      have listed : i ∈ (nv.active.tables.of t).keys ↔ ∃ r, (nv.active.tables.of t).at? i = some r := by
        simp only [Sparse.keys, List.mem_map, Prod.exists, exists_and_right, exists_eq_right, Sparse.mem_iff_at?_of_wf hwf]
      rw [if_pos rfl, listed, ← Option.ne_none_iff_exists']
      simp

/-- Settles O54: each operation by its own equation. -/
theorem stateChangesAreReported : Obligations.StateChangesAreReported := by
  refine ⟨fun kind n v g code c => ⟨notify_room, fun h => ?full⟩, ?tableError, fun c => rfl, ?leaves, fun n st i c hi => ?changes,
    fun nv n c => ⟨fun hnone => by rw [completionTest, hnone], fun i hi => ?completes⟩⟩
  case full => rw [notify_full h, satInc_eq]
  case tableError =>
    rintro v g code c before after x hnotices hseam rfl
    have joined : insertAt c.log.seam ⟨.tableError, c.log.time, 0, v, g, code⟩ c.log.notices
        = before ++ (⟨.tableError, c.log.time, 0, v, g, code⟩ : Notice) :: after := by
      rw [hnotices, ← hseam, insertAt_length]
    refine ⟨fun hroom => ?_, fun hfull hafter => ?_, fun hfull hafter => ?_⟩
    · rw [notifyTableError_room hroom, joined]
    · have alone : ¬ c.log.seam < c.log.notices.length := by
        rw [hnotices, hafter, List.append_nil, hseam]
        exact Nat.lt_irrefl _
      rw [notifyTableError_full hfull, if_neg alone, satInc_eq]
    · have behind : c.log.seam < c.log.notices.length := by
        rw [hnotices, List.length_append, hseam]
        exact Nat.lt_add_of_pos_right (List.length_pos_iff.2 hafter)
      have last : (before ++ (⟨.tableError, c.log.time, 0, v, g, code⟩ : Notice) :: after).dropLast
          = before ++ ⟨.tableError, c.log.time, 0, v, g, code⟩ :: after.dropLast := by
        rw [List.dropLast_append_of_ne_nil (List.cons_ne_nil _ _), List.dropLast_cons_of_ne_nil hafter]
      rw [notifyTableError_full hfull, if_pos behind, joined, last, satInc_eq]
  case leaves =>
    rintro n i why c d x y hx rfl rfl
    have left : incident? n (changeIncident n (fun z => { z with
        attributed := z.attributed.filter (· ≠ i), unverified := z.unverified || decide (why = .stale) }) c) = _ :=
      incident?_changeIncident_some (f := fun z => { z with
        attributed := z.attributed.filter (· ≠ i), unverified := z.unverified || decide (why = .stale) }) hx fun _ => rfl
    refine ⟨fun hnone hstate => ?_, fun h => ?_⟩
    · rw [leaveList, left]
      exact if_pos ⟨hnone, hstate⟩
    · rw [leaveList, left]
      refine if_neg fun ⟨hnone, hstate⟩ => ?_
      obtain h | ⟨hconfirming, hunconfirmed⟩ := h
      · exact h hnone
      · exact hstate.elim hconfirming hunconfirmed
  case changes =>
    refine ⟨changeState_eq hi, changeState_table c, levelAlert_alert_iff _, fun hroom => ?_, ?_, ?_, ?_, ?_, ?_⟩
    · rw [changeState_eq hi, levelAlert_log,
        notify_room (c := changeIncident n (fun x => { x with state := st }) c) hroom]
      rfl
    all_goals
      rw [changeState_eq hi]
      simp
  case completes =>
    have complete := isComplete_iff i c
    refine ⟨fun h => ?_, fun hstate hclosure hqueue hengine => ⟨fun hlist => ?_, fun hlist => ?_⟩⟩
    · rw [completionTest_live hi]
      refine if_neg fun hc => ?_
      obtain ⟨hstate, hclosure, hqueue, hengine⟩ := complete.1 hc
      obtain h | ⟨e, he, h⟩ | h | ⟨kind, w, h⟩ := h
      · exact h hstate
      · exact h.elim (hclosure e he).1 (hclosure e he).2
      · exact hqueue h
      · exact hengine kind w h
    · rw [completionTest_live hi, if_pos (complete.2 ⟨hstate, hclosure, hqueue, hengine⟩), if_neg hlist]
    · rw [completionTest_live hi, if_pos (complete.2 ⟨hstate, hclosure, hqueue, hengine⟩), if_pos hlist]

end Sys2Proof.Proofs
end

section
/-! The ends of motions (O50) and the grants (O53). -/

namespace Sys2Proof.Machine

open Sys2Proof.Claims

/-! ### Slots and valves -/

section
variable {c : Core}

@[simp] theorem valveOf_setValve_same (v : Nat) (x : ValveStatus) (c : Core) : valveOf v (setValve v x c) = x :=
  Sparse.atD_putD_same ..

theorem valveOf_setValve_other {v w : Nat} (h : w ≠ v) (x : ValveStatus) (c : Core) :
    valveOf w (setValve v x c) = valveOf w c := Sparse.atD_putD_other _ _ _ h

@[simp] theorem slotOf_setValve (k v : Nat) (x : ValveStatus) (c : Core) : slotOf k (setValve v x c) = slotOf k c := rfl

@[simp] theorem slotOf_freeSlot_same (k : Nat) (m : Motion) (st : ValveMark) (c : Core) : slotOf k (freeSlot k m st c) = none :=
  Sparse.at?_del_same ..

theorem slotOf_freeSlot_other {j k : Nat} (h : j ≠ k) (m : Motion) (st : ValveMark) (c : Core) :
    slotOf j (freeSlot k m st c) = slotOf j c := Sparse.at?_del_other _ h

@[simp] theorem valveOf_freeSlot_same (k : Nat) (m : Motion) (st : ValveMark) (c : Core) :
    valveOf m.valve (freeSlot k m st c) = { valveOf m.valve c with status := st } := valveOf_setValve_same ..

theorem valveOf_freeSlot_other {v k : Nat} {m : Motion} (h : v ≠ m.valve) (st : ValveMark) (c : Core) :
    valveOf v (freeSlot k m st c) = valveOf v c := valveOf_setValve_other h ..

@[simp] theorem slotOf_countFault (k v : Nat) (c : Core) : slotOf k (countFault v c) = slotOf k c := rfl

@[simp] theorem valveOf_countFault_same (v : Nat) (c : Core) :
    valveOf v (countFault v c) = { valveOf v c with faults := min 255 ((valveOf v c).faults + 1) } := valveOf_setValve_same ..

theorem valveOf_countFault_other {v w : Nat} (h : w ≠ v) (c : Core) : valveOf w (countFault v c) = valveOf w c :=
  valveOf_setValve_other h ..

end

/-! ### The expiries of a motion's timers (08 R165, R167) -/

section
variable {nv : Nv} {k : Nat} {m : Motion} {c : Core}

theorem responseExpiry_idle (h : ∀ m, slotOf k c = some m → m.phase ≠ .issued ∨ m.response ≠ some 0) :
    responseExpiry nv k c = c := by
  unfold responseExpiry
  cases hm : slotOf k c with
  | none => rfl
  | some m => exact if_neg fun ⟨hphase, htimer⟩ => (h m hm).elim (· hphase) (· htimer)

theorem responseExpiry_runs (hm : slotOf k c = some m) (hphase : m.phase = .issued) (htimer : m.response = some 0) :
    responseExpiry nv k c = if m.reissued = true then faultMotion nv k m .noResponse c else firstExpiry nv k m c := by
  rw [responseExpiry, hm]
  exact if_pos ⟨hphase, htimer⟩

theorem strokeExpiry_idle (h : ∀ m, slotOf k c = some m → m.phase ≠ .moving ∨ m.strokeTimer ≠ some 0) :
    strokeExpiry nv k c = c := by
  unfold strokeExpiry
  cases hm : slotOf k c with
  | none => rfl
  | some m => exact if_neg fun ⟨hphase, htimer⟩ => (h m hm).elim (· hphase) (· htimer)

theorem strokeExpiry_runs (hm : slotOf k c = some m) (hphase : m.phase = .moving) (htimer : m.strokeTimer = some 0) :
    strokeExpiry nv k c = faultMotion nv k m .overrun c := by
  rw [strokeExpiry, hm]
  exact if_pos ⟨hphase, htimer⟩

theorem firstExpiry_held (h : held nv m.valve (touchEntry nv .valve m.valve c) = true) :
    firstExpiry nv k m c = withdrawFaulted nv k m .held (touchEntry nv .valve m.valve c) := if_pos h

theorem firstExpiry_unusable (h : held nv m.valve (touchEntry nv .valve m.valve c) = false)
    (hseen : ∀ r, seen nv .valve m.valve (touchEntry nv .valve m.valve c) ≠ .value r) :
    firstExpiry nv k m c = withdrawFaulted nv k m .unusable (touchEntry nv .valve m.valve c) := by
  rw [firstExpiry, if_neg (by simp [h])]
  cases hs : seen nv .valve m.valve (touchEntry nv .valve m.valve c) with
  | absent => rfl
  | poisoned => rfl
  | value r => exact absurd hs (hseen r)

theorem firstExpiry_value {r : Record} (h : held nv m.valve (touchEntry nv .valve m.valve c) = false)
    (hseen : seen nv .valve m.valve (touchEntry nv .valve m.valve c) = .value r) : firstExpiry nv k m c =
      if m.action = .reopen ∧ 0 < (valveOf m.valve (touchEntry nv .valve m.valve c)).claims then
        withdrawSkipped nv k m (touchEntry nv .valve m.valve c)
      else reissue nv k m r.valve (touchEntry nv .valve m.valve c) := by
  rw [firstExpiry, if_neg (by simp [h]), hseen]

end

/-! ### What the Incident Controller does once an entry has moved (06 R110, R121, R122) -/

section
variable {nv : Nv} {n : Nat} {i : Incident} {c : Core}

theorem changeIncident_eq (n : Nat) (f : Incident → Incident) (c : Core) : changeIncident n f c = { c with ic := { c.ic with
    table := c.ic.table.map fun e => (e.1, if e.2.number = n then f e.2 else e.2) } } := by
  have same : (fun p : Nat × Incident => if p.2.number = n then (p.1, f p.2) else p)
      = fun e => (e.1, if e.2.number = n then f e.2 else e.2) := by
    funext p
    split <;> rfl
  rw [changeIncident, same]

theorem tellFault_live (h : incident? n c = some i) : tellFault nv n c = match i.state with
    | .isolating => queueReplan nv n c
    | .suspending => queueReplan nv n c
    | .awaitingConsent => changeIncident n (fun x => { x with owed := true }) c
    | _ => c := by
  rw [tellFault, h] <;> rfl

theorem afterEntry_live (h : incident? n c = some i) : afterEntry nv n c = match i.state with
    | .isolating => completionTest nv n c
    | .suspending => if inFlight n c then c else changeState n .suspended c
    | .restoring =>
      if inFlight n c then c
      else if i.reopen = [] then buildReopen nv n c
      else if i.reopen.all (fun e => e.progress.ended) then endIncident nv n c
      else c
    | _ => c := by
  rw [afterEntry, h] <;> rfl

theorem inFlight_eq_false (n : Nat) (c : Core) : inFlight n c = false ↔ ∀ p ∈ c.ds.slots, p.2.owner ≠ n := by
  simp [inFlight]

end

/-! ### Grants (08 R157-R163) -/

section
variable {nv : Nv} {n v k : Nat} {a : Action} {c : Core}

/-- The checks at a grant that both actions share, past the claims that stand against a reopening. -/
theorem takeEntry_held (hclaims : ¬(a = .reopen ∧ 0 < (valveOf v (touchEntry nv .valve v c)).claims))
    (h : held nv v (touchEntry nv .valve v c) = true) :
    takeEntry nv n v a k c = faultEntry nv n v a .held (touchEntry nv .valve v c) := by
  rw [takeEntry, if_neg hclaims, if_pos h]

theorem takeEntry_unusable (hclaims : ¬(a = .reopen ∧ 0 < (valveOf v (touchEntry nv .valve v c)).claims))
    (h : held nv v (touchEntry nv .valve v c) = false)
    (hbad : (valveOf v (touchEntry nv .valve v c)).status = .failed ∨ ∀ r, seen nv .valve v (touchEntry nv .valve v c) ≠ .value r) :
    takeEntry nv n v a k c = faultEntry nv n v a .unusable (touchEntry nv .valve v c) := by
  rw [takeEntry, if_neg hclaims, if_neg (by simp [h])]
  split
  · rfl
  · next r hseen hstatus => exact (hbad.elim hstatus (· r hseen)).elim
  · rfl

theorem takeEntry_value {r : Record} (hclaims : ¬(a = .reopen ∧ 0 < (valveOf v (touchEntry nv .valve v c)).claims))
    (h : held nv v (touchEntry nv .valve v c) = false) (hstatus : (valveOf v (touchEntry nv .valve v c)).status ≠ .failed)
    (hseen : seen nv .valve v (touchEntry nv .valve v c) = .value r) : takeEntry nv n v a k c =
      if (valveOf v (touchEntry nv .valve v c)).position = a.target then endEntry nv n v a .done (touchEntry nv .valve v c)
      else issueDrive nv n v a k r.valve (touchEntry nv .valve v c) := by
  rw [takeEntry, if_neg hclaims, if_neg (by simp [h]), hseen]
  split
  · next hfailed => exact absurd hfailed hstatus
  · next hvalue _ => rw [Seen.value.inj hvalue]
  · next hvalue => exact absurd rfl (hvalue r)

theorem takeEntry_claimed (h : 0 < (valveOf v (touchEntry nv .valve v c)).claims) :
    takeEntry nv n v .reopen k c = endEntry nv n v .reopen .skipped (touchEntry nv .valve v c) := if_pos ⟨rfl, h⟩

end

theorem nextToken_spec {x : ValveStatus} (h : x.token ≤ 255) :
    1 ≤ nextToken x ∧ nextToken x ≤ 255 ∧ nextToken x ≠ x.echo ∧ nextToken x ≠ x.token := by
  unfold nextToken succToken
  repeat' split
  all_goals omega

theorem idleSlot_eq_none (c : Core) : idleSlot c = none ↔ ∀ j, j < 8 → (slotOf j c).isSome = true := by
  simp [idleSlot, List.find?_eq_none, Config.slots, Sparse.has, slotOf, Option.isSome_iff_ne_none]

theorem idleSlot_eq_some (c : Core) (k : Nat) :
    idleSlot c = some k ↔ k < 8 ∧ slotOf k c = none ∧ ∀ j, j < k → (slotOf j c).isSome = true := by
  rw [idleSlot, List.find?_range_eq_some]
  simp [Config.slots, Sparse.has, slotOf, and_left_comm]

/-! ### The arbiter's order (08 R158) -/

/-- What the arbiter orders incidents by: the group, the class, and the two parts of the key. -/
def grantRank (nv : Nv) (i : Incident) : List Nat := [(grantGroup i).getD 2, i.cls, (grantKey nv i).1, (grantKey nv i).2]

theorem grantBefore_eq_false (nv : Nv) (i j : Incident) : grantBefore nv i j = false ↔ ¬grantRank nv i < grantRank nv j := by
  rw [grantBefore, decide_eq_false_iff_not]
  rfl

theorem grantGroup_isSome (i : Incident) : (grantGroup i).isSome = true ↔ i.state = .isolating ∨ i.state = .restoring := by
  unfold grantGroup
  cases i.state <;> simp

theorem mem_grantOrder (nv : Nv) (c : Core) (i : Incident) :
    i ∈ grantOrder nv c ↔ i ∈ live c ∧ (i.state = .isolating ∨ i.state = .restoring) := by
  rw [grantOrder, mem_sortBy, List.mem_filter, grantGroup_isSome]

theorem pairwise_grantOrder (nv : Nv) (c : Core) :
    (grantOrder nv c).Pairwise fun i j => ¬grantRank nv j < grantRank nv i := by
  refine (pairwise_sortBy (before := grantBefore nv) (fun a b c hab hbc => ?_) (fun a b h => ?_) _).imp fun {a b} h =>
    (grantBefore_eq_false nv b a).1 h
  · rw [grantBefore_eq_false] at *
    exact List.le_trans hab hbc
  · rw [grantBefore_eq_false]
    exact List.lt_asymm (of_decide_eq_true h)

theorem grantRank_lt {nv : Nv} {i j : Incident} (h : GrantedBefore (nv.settings.grantOrder == 0) i j) : grantRank nv i < grantRank nv j := by
  obtain ⟨hisolating, hrestoring⟩ | ⟨hstate, h⟩ := h
  · simp [grantRank, grantGroup, hisolating, hrestoring, List.cons_lt_cons_iff]
  · have group : grantGroup i = grantGroup j := by rw [grantGroup, grantGroup, hstate]
    by_cases hfixed : nv.settings.grantOrder = 0
    · simp [hfixed] at h
      simp [grantRank, group, grantKey, hfixed, List.cons_lt_cons_iff]
      omega
    · simp [hfixed] at h
      simp [grantRank, group, grantKey, hfixed, List.cons_lt_cons_iff]
      omega

/-! ### Eligible entries (08 R159) -/

theorem stageOf_eq {nv : Nv} {a : Action} {c : Core} {stage : Nat → Nat} {v : Nat}
    (hnone : (∀ r, seen nv .valve v c ≠ .value r) → stage v = 0)
    (hvalue : ∀ r, seen nv .valve v c = .value r → stage v = if a = .close then r.valve.rank else 7 - r.valve.rank) :
    stageOf nv a v c = stage v := by
  unfold stageOf rankOr
  cases hs : seen nv .valve v c with
  | value r => rw [hvalue r hs]; cases a <;> rfl
  | absent => rw [hnone (by simp [hs])]; cases a <;> rfl
  | poisoned => rw [hnone (by simp [hs])]; cases a <;> rfl

theorem motionOf_eq_none (v : Nat) (c : Core) : motionOf v c = none ↔ ∀ p ∈ c.ds.slots, p.2.valve ≠ v := by
  simp [motionOf, List.find?_eq_none]

theorem surge_free_iff (nv : Nv) (v : Nat) (c : Core) :
    (surgeOf nv v c == 0 || !c.ds.slots.any fun p => p.2.surge == surgeOf nv v c) = true ↔
      ∀ r, seen nv .valve v c = .value r → r.valve.surge ≠ 0 → ∀ p ∈ c.ds.slots, p.2.surge ≠ r.valve.surge := by
  unfold surgeOf
  cases seen nv .valve v c with
  | value r =>
    simp only [Bool.or_eq_true, beq_iff_eq, Bool.not_eq_true', List.any_eq_false, Seen.value.injEq, forall_eq']
    exact Decidable.or_iff_not_imp_left
  | absent => simp
  | poisoned => simp

theorem eligible_iff {nv : Nv} {a : Action} {es : List (Nat × Progress)} {e : Nat × Progress} {c : Core} :
    eligible nv a es e c = true ↔ e.2 = .queued
      ∧ (∀ f ∈ es, (f.2 = .queued ∨ f.2 = .inMotion) → stageOf nv a e.1 c ≤ stageOf nv a f.1 c)
      ∧ (∀ p ∈ c.ds.slots, p.2.valve ≠ e.1)
      ∧ ∀ r, seen nv .valve e.1 c = .value r → r.valve.surge ≠ 0 → ∀ p ∈ c.ds.slots, p.2.surge ≠ r.valve.surge := by
  have stages : (es.all fun f => f.2.ended || decide (stageOf nv a e.1 c ≤ stageOf nv a f.1 c)) = true ↔
      ∀ f ∈ es, (f.2 = .queued ∨ f.2 = .inMotion) → stageOf nv a e.1 c ≤ stageOf nv a f.1 c := by
    simp only [List.all_eq_true, Bool.or_eq_true, ended_iff, decide_eq_true_eq]
    refine forall_congr' fun f => forall_congr' fun _ => ?_
    rw [← not_or, Decidable.imp_iff_not_or]
  rw [eligible, Bool.and_eq_true, Bool.and_eq_true, Bool.and_eq_true, stages, surge_free_iff, Option.isNone_iff_eq_none,
    motionOf_eq_none, beq_iff_eq, and_assoc, and_assoc]

theorem scan_found {nv : Nv} {i : Incident} {rest : List Incident} {a : Action} {es before after : List (Nat × Progress)}
    {e : Nat × Progress} {c d : Core} (hentries : grantEntries i = (a, es))
    (hd : d = (es.filter fun e => !e.2.ended).foldl (fun c e => touchEntry nv .valve e.1 c) c)
    (hes : es = before ++ e :: after) (hbefore : ∀ f ∈ before, eligible nv a es f d = false)
    (he : eligible nv a es e d = true) : scan nv (i :: rest) c = (some (i.number, e.1, a), d) := by
  have found : (es.find? fun e => eligible nv a es e d) = some e :=
    List.find?_eq_some_iff_append.2 ⟨he, before, after, hes, fun f hf => by simp [hbefore f hf]⟩
  rw [scan, hentries]
  dsimp only
  rw [← hd, found]

theorem scan_passes {nv : Nv} {i : Incident} {rest : List Incident} {a : Action} {es : List (Nat × Progress)}
    {c d : Core} (hentries : grantEntries i = (a, es))
    (hd : d = (es.filter fun e => !e.2.ended).foldl (fun c e => touchEntry nv .valve e.1 c) c)
    (hnone : ∀ f ∈ es, eligible nv a es f d = false) : scan nv (i :: rest) c = scan nv rest d := by
  have none : (es.find? fun e => eligible nv a es e d) = none :=
    List.find?_eq_none.2 fun f hf => by simp [hnone f hf]
  rw [scan, hentries]
  dsimp only
  rw [← hd, none]

/-! ### Keys and drive copies (06 R101; 01 R15) -/

theorem renumberKeys_below {c : Core} (h : c.ic.rotations < 4294967295) : renumberKeys c = c := if_pos h

theorem waitsFor_iff (k : Nat) (y : DriveCopy) : y.waitsFor k = true ↔ y.drive.slot = k ∧ y.sending = false := by
  simp [DriveCopy.waitsFor]

theorem queueDrive_joins {d : Drive} {xs : List DriveCopy} (h : ∀ y ∈ xs, y.drive.slot = d.slot → y.sending = true) :
    queueDrive d xs = xs ++ [⟨d, none, false⟩] := by
  refine if_neg fun hany => ?_
  obtain ⟨y, hy, hwaits⟩ := List.any_eq_true.1 hany
  obtain ⟨hslot, hsending⟩ := (waitsFor_iff _ _).1 hwaits
  exact Bool.noConfusion (hsending.symm.trans (h y hy hslot))

theorem queueDrive_replaces {d : Drive} {xs : List DriveCopy} (h : ∃ y ∈ xs, y.drive.slot = d.slot ∧ y.sending = false) :
    queueDrive d xs = xs.map fun y => if y.drive.slot = d.slot ∧ y.sending = false then ⟨d, none, false⟩ else y := by
  obtain ⟨y, hy, hwaits⟩ := h
  have hany : xs.any (DriveCopy.waitsFor d.slot) = true := List.any_eq_true.2 ⟨y, hy, (waitsFor_iff _ _).2 hwaits⟩
  rw [queueDrive, if_pos hany]
  simp only [waitsFor_iff]

/-- What the orders of an event leave is the same once they have been delivered. -/
theorem settle_deliver (s : State) : settle s = settle (deliver s) := rfl

end Sys2Proof.Machine

namespace Sys2Proof.Proofs

open Sys2Proof Sys2Proof.Machine Sys2Proof.Claims

/-- Settles O50: the expiries by what their slot and valve hold, and the operations that follow the end of an entry. -/
theorem motionTimersExpire : Obligations.MotionTimersExpire := by
  refine ⟨fun k s => ⟨fun h => ends_of (f := fun nv c => responseExpiry nv k c) rfl (responseExpiry_idle h),
      fun h => ends_of (f := fun nv c => strokeExpiry nv k c) rfl (strokeExpiry_idle h), fun m hm hphase htimer => ?response,
      fun m hm hphase htimer => ends_of (f := fun nv c => strokeExpiry nv k c) rfl (strokeExpiry_runs hm hphase htimer),
      fun m c hc => ?faulted⟩,
    fun k m st c d hd => ?freed, fun nv n v a cause code c d hcode hd => ?faults,
    fun nv n v a p c => ⟨rfl, rfl, rfl⟩, changeIncident_eq, fun nv n c => ⟨fun hnone => ?gone, fun i hi => ?told⟩,
    fun nv n c => rfl⟩
  case response =>
    have runs := responseExpiry_runs (nv := s.nv) hm hphase htimer
    refine ⟨fun hagain => ends_of (f := fun nv c => responseExpiry nv k c) rfl (runs.trans (if_pos hagain)), ?_⟩
    rintro hfirst c rfl
    rw [if_neg (by simp [hfirst])] at runs
    refine ⟨fun hheld => ends_of (f := fun nv c => responseExpiry nv k c) rfl (runs.trans (firstExpiry_held hheld)),
      fun hheld hnone => ends_of (f := fun nv c => responseExpiry nv k c) rfl (runs.trans (firstExpiry_unusable hheld hnone)),
      fun r hheld hseen => ⟨fun haction hclaims => ?_, fun h => ?_⟩⟩
    · exact ends_of (f := fun nv c => responseExpiry nv k c) rfl
        (runs.trans ((firstExpiry_value hheld hseen).trans (if_pos ⟨haction, hclaims⟩)))
    · refine ends_of (f := fun nv c => responseExpiry nv k c) rfl
        (runs.trans ((firstExpiry_value hheld hseen).trans (if_neg fun ⟨haction, hclaims⟩ => ?_)))
      obtain h | h := h
      · cases h.symm.trans haction
      · omega
  case faulted =>
    subst hc
    refine ⟨slotOf_freeSlot_same k m .failed _, ?_, fun v hv => ?_, fun j hj => slotOf_freeSlot_other hj m .failed _⟩
    · rw [valveOf_countFault_same, valveOf_freeSlot_same]
    · rw [valveOf_countFault_other hv, valveOf_freeSlot_other hv]
  case freed =>
    subst hd
    exact ⟨slotOf_freeSlot_same .., fun j hj => slotOf_freeSlot_other hj .., valveOf_freeSlot_same ..,
      fun v hv => valveOf_freeSlot_other hv .., rfl, rfl, rfl, rfl, rfl, rfl, rfl⟩
  case faults =>
    have codes : ∀ x ∈ [(FaultCause.noResponse, 1), (.jammed, 2), (.overrun, 3), (.stoppedShort, 4), (.held, 5),
        (.unusable, 6)], x.1.code = x.2 := by decide
    obtain rfl : cause.code = code := codes _ hcode
    subst hd
    exact ⟨fun ha => ha ▸ rfl, fun ha => ha ▸ rfl⟩
  case gone => rw [tellFault, afterEntry, hnone]; exact ⟨rfl, rfl⟩
  case told =>
    have told := tellFault_live (nv := nv) hi
    have after := afterEntry_live (nv := nv) hi
    refine ⟨fun hstate => ?_, fun hstate => ?_, fun hisolating hsuspending hawaiting => ?_, fun hstate => ?_,
      fun hmoving hisolating => ?_, fun hstill => ⟨fun hstate => ?_, fun hstate hlist => ?_, fun hstate hlist =>
        ⟨fun hended => ?_, fun hleft => ?_⟩⟩, fun hisolating hsuspending hrestoring => ?_⟩
    · rw [told]
      obtain h | h := hstate
      · rw [h]
      · rw [h]
    · rw [told, hstate]
    · rw [told]
      split
      · next h => exact absurd h hisolating
      · next h => exact absurd h hsuspending
      · next h => exact absurd h hawaiting
      · rfl
    · rw [after, hstate]
    · rw [after, (inFlight_iff n c).2 hmoving]
      split
      · next h => exact absurd h hisolating
      · rfl
      · rfl
      · rfl
    · rw [after, hstate, (inFlight_eq_false n c).2 hstill]
      rfl
    · rw [after, hstate, (inFlight_eq_false n c).2 hstill]
      exact if_pos hlist
    · rw [after, hstate, (inFlight_eq_false n c).2 hstill]
      exact (if_neg hlist).trans (if_pos (List.all_eq_true.2 fun e he => (ended_iff _).2 (hended e he)))
    · rw [after, hstate, (inFlight_eq_false n c).2 hstill]
      refine (if_neg hlist).trans (if_neg fun hall => ?_)
      obtain ⟨e, he, h⟩ := hleft
      obtain ⟨hqueued, hmotion⟩ := (ended_iff _).1 (List.all_eq_true.1 hall e he)
      exact h.elim hqueued hmotion
    · rw [after]
      split
      · next h => exact absurd h hisolating
      · next h => exact absurd h hsuspending
      · next h => exact absurd h hrestoring
      · rfl

/-- Settles O53: the checks at a grant, the arbiter's order and eligibility, and what an issued drive does. -/
theorem grantsCheckTheirValve : Obligations.GrantsCheckTheirValve := by
  refine ⟨?checks, fun x hx => ⟨nextToken_spec hx, ?token⟩, fun nv k c => ⟨rfl, fun hnone => ?noSlot, fun j hj => ⟨fun d hd => ?done,
      fun n v a d hd => ?grants⟩⟩, fun c => ⟨idleSlot_eq_none c, idleSlot_eq_some c⟩,
    fun nv c => ⟨mem_grantOrder nv c, ?ordered⟩, fun nv i rest a es c d hclose hreopen hstate hd => ?scan,
    fun nv a es e stage c hstage => ?eligible, ?issues, fun n c rank => ⟨fun hbelow => ?below, fun htop hrank m hm => ?top⟩,
    fun d c => rfl, settle_deliver, fun r o => rfl,
    fun d k x => ⟨rfl, fun hdown => if_neg (by simp [hdown]), fun hup hnone => ?joins, fun hup hsome => ?replaces⟩⟩
  case checks =>
    rintro nv n v k c d x rfl rfl
    have close : ¬(Action.close = .reopen ∧ 0 < (valveOf v (touchEntry nv .valve v c)).claims) := fun ⟨h, _⟩ => by cases h
    refine ⟨fun hheld => takeEntry_held close hheld, fun hheld => ⟨fun hbad => takeEntry_unusable close hheld hbad,
      fun r hstatus hseen => ⟨fun hat => ?_, fun hat => ?_⟩⟩, takeEntry_claimed, fun hclaims => ?_⟩
    · exact (takeEntry_value close hheld hstatus hseen).trans (if_pos hat)
    · exact (takeEntry_value close hheld hstatus hseen).trans (if_neg hat)
    · have reopen : ¬(Action.reopen = .reopen ∧ 0 < (valveOf v (touchEntry nv .valve v c)).claims) := fun ⟨_, h⟩ => by omega
      refine ⟨fun hheld => takeEntry_held reopen hheld, fun hheld => ⟨fun hbad => takeEntry_unusable reopen hheld hbad,
        fun r hstatus hseen => ⟨fun hat => ?_, fun hat => ?_⟩⟩⟩
      · exact (takeEntry_value reopen hheld hstatus hseen).trans (if_pos hat)
      · exact (takeEntry_value reopen hheld hstatus hseen).trans (if_neg hat)
  case token =>
    rintro y rfl
    exact ⟨fun h => if_neg h, fun h => if_pos h⟩
  case noSlot => rw [grantLoop, hnone]
  case done => rw [grantLoop, hj, hd]
  case grants => rw [grantLoop, hj, hd]
  case ordered =>
    exact (pairwise_grantOrder nv c).imp fun h hbefore => absurd (grantRank_lt hbefore) h
  case scan =>
    have entries : grantEntries i = (a, es) := by
      obtain h | h := hstate
      · obtain ⟨rfl, rfl⟩ := hclose h
        rw [grantEntries, h]
      · obtain ⟨rfl, rfl⟩ := hreopen h
        rw [grantEntries, h]
    exact ⟨rfl, fun before e after hes hbefore he => scan_found entries hd hes hbefore he, fun hnone => scan_passes entries hd hnone⟩
  case eligible =>
    have stages (v : Nat) : stageOf nv a v c = stage v := stageOf_eq (hstage v).1 (hstage v).2
    rw [eligible_iff]
    simp only [stages]
  case issues =>
    rintro nv n v k a r x c rfl
    rfl
  case below => rw [refreshKey, renumberKeys_below hbelow]
  case top =>
    have ranks (k : Nat) : rank k = if k = 0 then 0 else
        ((((live c).filter fun i => i.key ≠ 0).filter fun i => i.key < k).length + 1) := by
      rw [hrank, List.filter_filter]
      simp only [Bool.and_comm, Bool.decide_and]
    have renumbered : renumberKeys c = { c with ic := { c.ic with
        table := c.ic.table.map fun p => (p.1, { p.2 with key := rank p.2.key }), rotations := m } } := by
      simp only [renumberKeys, ranks, hm]
      exact if_neg (Nat.not_lt.2 htop)
    rw [refreshKey, renumbered]
  case joins => rw [portOrder, if_pos hup, queueDrive_joins hnone]
  case replaces => rw [portOrder, if_pos hup, queueDrive_replaces hsome]

end Sys2Proof.Proofs
end

section
/-! Raising (O37), and releasing, restoring and ending (O40). -/

namespace Sys2Proof.Machine

open Sys2Proof.Claims

/-! ### RAISE (05 R92, R93) -/

/-- The blocks once RAISE has read its segment's entry and index record. -/
def raiseRead (nv : Nv) (g : Nat) (c : Core) : Core :=
  luUpdate nv (touchIndex nv .segmentIndex g (touchEntry nv .segment g c))

section
variable {nv : Nv} {args : List Byte} {c : Core} {r : Record}

theorem doRaise_outside (h : 511 < u16 args 0) : doRaise nv args c = (plain .badRequest, c) := if_pos h

theorem doRaise_halted (hg : u16 args 0 ≤ 511) (h : c.ic.mode = .halt) : doRaise nv args c = (plain .wrongMode, c) := by
  rw [doRaise, if_neg (Nat.not_lt.2 hg), if_pos h]

/-- Past its first two checks RAISE makes its reads, and goes on by what they give. -/
theorem doRaise_notFound (hg : u16 args 0 ≤ 511) (hmode : c.ic.mode ≠ .halt)
    (h : (∀ r, seen nv .segment (u16 args 0) (raiseRead nv (u16 args 0) c) ≠ .value r)
      ∨ indexPoisoned .segmentIndex (u16 args 0) (raiseRead nv (u16 args 0) c) = true) :
    doRaise nv args c = (plain .notFound, raiseRead nv (u16 args 0) c) := by
  rw [doRaise, if_neg (Nat.not_lt.2 hg), if_neg hmode]
  change (match seen nv .segment (u16 args 0) (raiseRead nv (u16 args 0) c) with
    | .value r => _
    | .absent => _
    | .poisoned => _) = _
  cases hs : seen nv .segment (u16 args 0) (raiseRead nv (u16 args 0) c) with
  | value r => exact if_pos (h.resolve_left fun hnone => hnone r hs)
  | absent => rfl
  | poisoned => rfl

theorem doRaise_found (hg : u16 args 0 ≤ 511) (hmode : c.ic.mode ≠ .halt)
    (hseen : seen nv .segment (u16 args 0) (raiseRead nv (u16 args 0) c) = .value r)
    (hindex : indexPoisoned .segmentIndex (u16 args 0) (raiseRead nv (u16 args 0) c) = false) :
    doRaise nv args c =
      if covered (u16 args 0) (raiseRead nv (u16 args 0) c) then (plain (.refused .covered), raiseRead nv (u16 args 0) c)
      else if freeEntries (raiseRead nv (u16 args 0) c) = [] then (plain (.refused .full), raiseRead nv (u16 args 0) c)
      else
        (doneIncident (raiseNumber (raiseRead nv (u16 args 0) c)) (raisedState (raiseNumber (raiseRead nv (u16 args 0) c))
            (luUpdate nv (raiseIncident nv (u16 args 0) r.segment .manual
              (scoreOf (u16 args 0) (raiseRead nv (u16 args 0) c)) (raiseRead nv (u16 args 0) c)))),
          luUpdate nv (raiseIncident nv (u16 args 0) r.segment .manual
            (scoreOf (u16 args 0) (raiseRead nv (u16 args 0) c)) (raiseRead nv (u16 args 0) c))) := by
  rw [doRaise, if_neg (Nat.not_lt.2 hg), if_neg hmode]
  change (match seen nv .segment (u16 args 0) (raiseRead nv (u16 args 0) c) with
    | .value r => _
    | .absent => _
    | .poisoned => _) = _
  rw [hseen]
  exact if_neg fun h => Bool.false_ne_true (hindex.symm.trans h)

end

/-! ### The number a raising gives (06 R101) -/

/-- The numbers in the order in which a raising tries them, from the next one on. -/
def numberFrom (next k : Nat) : Nat := (next - 1 + k) % 255 + 1

theorem succNumber_numberFrom (next k : Nat) : succNumber (numberFrom next k) = numberFrom next (k + 1) := by
  unfold succNumber numberFrom
  split <;> omega

/-- The search ends at the first free number it meets, or when it has tried as many as it may. -/
theorem firstFree_spec (next : Nat) (c : Core) : ∀ f j, ∃ k, k ≤ f ∧ firstFree c f (numberFrom next j) = numberFrom next (j + k)
    ∧ (∀ i, i < k → incident? (numberFrom next (j + i)) c ≠ none) ∧ (k < f → incident? (numberFrom next (j + k)) c = none)
  | 0, j => ⟨0, Nat.le_refl 0, rfl, fun _ hi => absurd hi (Nat.not_lt_zero _), fun h => absurd h (Nat.lt_irrefl 0)⟩
  | f + 1, j => by
    by_cases hfree : incident? (numberFrom next j) c = none
    · refine ⟨0, Nat.zero_le _, ?_, fun _ hi => absurd hi (Nat.not_lt_zero _), fun _ => hfree⟩
      rw [firstFree, hfree]
      rfl
    · obtain ⟨k, hk, hfound, htried, hend⟩ := firstFree_spec next c f (j + 1)
      refine ⟨k + 1, Nat.succ_le_succ hk, ?_, fun i hi => ?_, fun h => ?_⟩
      · rw [firstFree, if_pos (Option.isSome_iff_ne_none.2 hfree), succNumber_numberFrom, hfound]
        congr 1
        omega
      · cases i with
        | zero => exact hfree
        | succ i => exact Nat.add_right_comm j 1 i ▸ htried i (Nat.lt_of_succ_lt_succ hi)
      · exact Nat.add_right_comm j 1 k ▸ hend (Nat.lt_of_succ_lt_succ h)

theorem incident?_ne_none (n : Nat) (c : Core) : incident? n c ≠ none ↔ n ∈ (live c).map Incident.number := by
  simp [incident?, List.find?_eq_none]

/-- Sixteen live incidents leave one of the 255 numbers free. -/
theorem exists_free_number {next : Nat} {c : Core} (hlow : 1 ≤ next) (hhigh : next ≤ 255) (hlive : (live c).length ≤ 16) :
    ∃ k, k < 255 ∧ incident? (numberFrom next k) c = none := by
  refine Classical.byContradiction fun hnone => ?_
  have hall (k : Nat) (hk : k < 255) : incident? (numberFrom next k) c ≠ none := fun hfree => hnone ⟨k, hk, hfree⟩
  have used : List.range' 1 255 ⊆ (live c).map Incident.number := fun n hn => by
    obtain ⟨hn1, hn255⟩ := List.mem_range'_1.1 hn
    have reached : numberFrom next ((n + 255 - next) % 255) = n := by
      unfold numberFrom
      omega
    rw [← reached]
    exact (incident?_ne_none _ _).1 (hall _ (Nat.mod_lt _ (by decide)))
  have many := List.Nodup.length_le_of_subset List.nodup_range' used
  rw [List.length_range', List.length_map] at many
  omega

theorem raiseNumber_spec {c : Core} (hlow : 1 ≤ c.ic.nextNumber) (hhigh : c.ic.nextNumber ≤ 255)
    (hlive : (live c).length ≤ 16) : incident? (raiseNumber c) c = none ∧ ∃ k, k < 255
      ∧ raiseNumber c = (c.ic.nextNumber - 1 + k) % 255 + 1
      ∧ ∀ j, j < k → incident? ((c.ic.nextNumber - 1 + j) % 255 + 1) c ≠ none := by
  have start : c.ic.nextNumber = numberFrom c.ic.nextNumber 0 := by
    unfold numberFrom
    omega
  obtain ⟨k, hk, hfound, htried, hend⟩ := firstFree_spec c.ic.nextNumber c 255 0
  simp only [Nat.zero_add] at hfound htried hend
  obtain ⟨free, hfree, hnone⟩ := exists_free_number hlow hhigh hlive
  have below : k < 255 := by
    refine Nat.lt_of_le_of_ne hk fun heq => ?_
    exact htried free (heq ▸ hfree) hnone
  have number : raiseNumber c = numberFrom c.ic.nextNumber k := by
    rw [raiseNumber]
    exact (congrArg (firstFree c 255) start).trans hfound
  exact ⟨number ▸ hend below, k, below, number, htried⟩

/-! ### The steps of a raising (05 R90, R91; 06 R100-R102) -/

section
variable {nv : Nv} {c : Core}

theorem raiseIncident_full {g score : Nat} {r : SegmentRecord} {cause : RaiseCause} (h : freeEntries c = []) :
    raiseIncident nv g r cause score c = c := by
  rw [raiseIncident, pickEntry, h]

theorem raiseIncident_picks {g score e picks : Nat} {r : SegmentRecord} {cause : RaiseCause}
    (h : pickEntry c = some (e, picks)) : raiseIncident nv g r cause score c =
      admission nv (levelAlert (notify .incidentState (raiseNumber c) 65535 g 1 (luUpdate nv
        (attributeWitnesses nv (raiseNumber c) g (inhibitSegment nv { renumberOrders c with ic := { (renumberOrders c).ic with
          table := (renumberOrders c).ic.table.put e
            (newIncident (raiseNumber c) g ((renumberOrders c).ic.raises + 1) r cause score)
          nextNumber := succNumber (raiseNumber c), raises := (renumberOrders c).ic.raises + 1, picks := picks } } g))))) := by
  rw [raiseIncident, h]
  rfl

theorem pickEntry_eq_some (h : freeEntries c ≠ []) : ∃ e picks, pickEntry c = some (e, picks) := by
  unfold pickEntry
  cases hfree : freeEntries c with
  | nil => exact absurd hfree h
  | cons e es => exact ⟨_, _, rfl⟩

theorem renumberOrders_below (h : c.ic.raises < 4294967295) : renumberOrders c = c := if_pos h

/-- The raise order an order is renumbered to. -/
def orderRank (c : Core) (o : Nat) : Nat := ((live c).filter fun i => i.order < o).length + 1

theorem renumberOrders_top (h : 4294967295 ≤ c.ic.raises) : renumberOrders c = { c with
    ic := { c.ic with table := c.ic.table.map fun p => (p.1, { p.2 with order := orderRank c p.2.order })
                      raises := c.ic.table.length }
    ip := { engine := match c.ip.engine with
              | .running o k w => .running (if (live c).any (fun i => i.order == o) then orderRank c o else 0) k w
              | .idle => .idle
            queue := c.ip.queue.map (orderRank c) } } := by
  have top : ¬ c.ic.raises < Config.counterTop := Nat.not_lt.2 h
  rw [renumberOrders, if_neg top]
  cases c.ip.engine <;> rfl

theorem attributeWitnesses_none {n g : Nat} (h : indexPoisoned .segmentIndex g (touchIndex nv .segmentIndex g c) = true
    ∨ (touchIndex nv .segmentIndex g c).ts.valid = false) :
    attributeWitnesses nv n g c = touchIndex nv .segmentIndex g c := by
  refine if_pos ?_
  rw [Bool.or_eq_true]
  exact h.imp_right fun hvalid => by rw [hvalid]; rfl

theorem attributeWitnesses_listed {n g : Nat} (h : indexPoisoned .segmentIndex g (touchIndex nv .segmentIndex g c) = false)
    (hvalid : (touchIndex nv .segmentIndex g c).ts.valid = true) : attributeWitnesses nv n g c =
      (nv.active.tables.associationList g).foldl (nameWitness nv n g) (touchIndex nv .segmentIndex g c) :=
  if_neg (by simp [h, hvalid])

theorem nameWitness_unseen {n g a : Nat} (h : ∀ r, seen nv .association a (touchEntry nv .association a c) ≠ .value r) :
    nameWitness nv n g c a = touchEntry nv .association a c := by
  unfold nameWitness
  dsimp only
  cases hs : seen nv .association a (touchEntry nv .association a c) with
  | value r => exact absurd hs (h r)
  | absent => rfl
  | poisoned => rfl

theorem nameWitness_seen {n g a : Nat} {r : Record} {e : Core}
    (h : seen nv .association a (touchEntry nv .association a c) = .value r)
    (he : e = touchEntry nv .sensor r.association.sensor (touchEntry nv .association a c)) : nameWitness nv n g c a =
      if seen nv .sensor r.association.sensor e = .poisoned ∨ indexPoisoned .sensorIndex r.association.sensor e = true
          ∨ (channelOf r.association.sensor e).home = some g then e
      else if (channelOf r.association.sensor e).state = .tripped then
        touchRun nv r.association.sensor (changeIncident n (fun x => { x with
          attributed := x.attributed ++ [r.association.sensor] }) (setChannel r.association.sensor
            { channelOf r.association.sensor e with state := .attributed, incident := some n } e))
      else e := by
  subst he
  rw [nameWitness, h]

/-- The context of a channel once it has become INHIBITED (04 R74). -/
def inhibited (ch : Channel) : Channel :=
  { ch with state := .inhibited, persistence := 0, release := 0, timer := none, incident := none }

theorem inhibitChannel_attributed {i n : Nat} (hstate : (channelOf i c).state = .attributed)
    (hincident : (channelOf i c).incident = some n) :
    inhibitChannel nv c i = leaveList n i .inhibited (setChannel i (inhibited (channelOf i c)) c) := by
  simp only [inhibitChannel, hstate, hincident]
  rfl

theorem inhibitChannel_tripped {i : Nat} (hstate : (channelOf i c).state = .tripped) :
    inhibitChannel nv c i = touchRun nv i (setChannel i (inhibited (channelOf i c)) c) := by
  simp only [inhibitChannel, hstate]
  rfl

theorem inhibitChannel_other {i : Nat} (hattributed : (channelOf i c).state ≠ .attributed)
    (htripped : (channelOf i c).state ≠ .tripped) :
    inhibitChannel nv c i = setChannel i (inhibited (channelOf i c)) c := by
  unfold inhibitChannel
  dsimp only
  split
  · next h _ => exact absurd h hattributed
  · next h => exact absurd h htripped
  · rfl

theorem channelOf_setChannel (i j : Nat) (ch : Channel) (c : Core) :
    channelOf j (setChannel i ch c) = if j = i then ch else channelOf j c := by
  split
  · next h => rw [h, channelOf_setChannel_same]
  · next h => exact channelOf_setChannel_other h ..

/-- The channels of a segment whose contexts meet a further condition, ascending. -/
theorem channelsAt_filter (h : c.wu.channels.wfD .reset = true) (g : Nat) (f : Nat → Bool) :
    (∀ i, i ∈ (channelsAt g c).filter f ↔ (channelOf i c).home = some g ∧ f i = true)
      ∧ ((channelsAt g c).filter f).Pairwise (· < ·) := by
  have hwf : c.wu.channels.wf = true := (Bool.and_eq_true_iff.1 h).1
  refine ⟨fun i => ?_, (Sparse.pairwise_filter hwf _).filter _⟩
  rw [List.mem_filter, mem_channelsAt h]

end

/-! ### RELEASE (06 R118-R123) -/

section
variable {nv : Nv} {n : Nat} {i : Incident} {c : Core}

theorem incident?_number (h : incident? n c = some i) : i.number = n := by simpa using List.find?_some h

theorem doRelease_none {args : List Byte} (h : releaseTarget (u8 args 0) c = none) : doRelease nv args c = (plain .notFound, c) := by
  rw [doRelease, h]

theorem doRelease_live {args : List Byte} (h : releaseTarget (u8 args 0) c = some i) :
    doRelease nv args c = releaseIncident nv i c := by
  rw [doRelease, h]

theorem foldl_giveUpClaim_slots (vs : List Nat) : ∀ c : Core, (vs.foldl giveUpClaim c).ds.slots = c.ds.slots := by
  induction vs with
  | nil => exact fun _ => rfl
  | cons v vs ih => exact fun c => (ih _).trans rfl

@[simp] theorem giveUpClaims_slots (n : Nat) (c : Core) : (giveUpClaims n c).ds.slots = c.ds.slots := by
  unfold giveUpClaims
  cases incident? n c with
  | none => rfl
  | some i => exact foldl_giveUpClaim_slots _ c

/-- Each valve of a list without repeats gives up one claim. -/
theorem valveOf_foldl_giveUpClaim (v : Nat) : ∀ {vs : List Nat}, vs.Nodup → ∀ c : Core, valveOf v (vs.foldl giveUpClaim c)
    = if v ∈ vs then { valveOf v c with claims := (valveOf v c).claims - 1 } else valveOf v c
  | [], _, c => rfl
  | w :: vs, h, c => by
    obtain ⟨hw, hvs⟩ := List.nodup_cons.1 h
    rw [List.foldl_cons, valveOf_foldl_giveUpClaim v hvs, giveUpClaim]
    by_cases hv : v = w
    · subst hv
      simp [hw]
    · rw [valveOf_setValve_other hv]
      simp [hv]

/-- The blocks once an incident has become RESTORING, before its reopen list (06 R120). -/
def restoring (n : Nat) (i : Incident) (c : Core) : Core :=
  giveUpClaims n (withdrawReplan i.order (changeIncident n (fun x => { x with
    state := .restoring, timer := none, releaseRequested := false, owed := false
    closure := x.closure.map fun e => if e.progress = .queued then { e with progress := .skipped } else e }) c))

theorem enterRestoring_live (h : incident? n c = some i) : enterRestoring nv n c =
    if inFlight n c then reportState n .restoring (restoring n i c)
    else startReopen nv n (reopenList nv n (restoring n i c)).1
      (reportState n .restoring (reopenList nv n (restoring n i c)).2) := by
  have still : inFlight n (restoring n i c) = inFlight n c := by
    rw [inFlight, restoring, giveUpClaims_slots]
    rfl
  rw [enterRestoring, h]
  change (if inFlight n (restoring n i c) = true then _ else _) = _
  rw [still]
  rfl

/-- Whether a valve's entry makes its normal position CLOSED. -/
def normallyClosed (nv : Nv) (v : Nat) (c : Core) : Bool :=
  match seen nv .valve v c with
  | .value r => r.valve.normal == 1
  | .absent => false
  | .poisoned => false

theorem normallyClosed_iff (nv : Nv) (v : Nat) (c : Core) :
    normallyClosed nv v c = true ↔ ∃ r, seen nv .valve v c = .value r ∧ r.valve.normal = 1 := by
  unfold normallyClosed
  cases seen nv .valve v c <;> simp

/-- An entry is passed over where a claim stands, its valve is closed normally, or it is open. -/
theorem reopenScan_eq (nv : Nv) (n : Nat) (vs : List Nat) (c : Core) (e : ClosureEntry) {d : Core}
    (hd : d = touchEntry nv .valve e.valve (beginPart c)) : reopenScan nv n (vs, c) e =
      if 0 < (valveOf e.valve d).claims ∨ normallyClosed nv e.valve d = true ∨ (valveOf e.valve d).position = .opened then (vs, d)
      else if held nv e.valve d then (vs, notify .reopenSkipped n e.valve 65535 1 d)
      else if (valveOf e.valve d).status = .failed then (vs, notify .reopenSkipped n e.valve 65535 2 d)
      else match seen nv .valve e.valve d with
        | .value _ => (vs ++ [e.valve], d)
        | _ => (vs, notify .reopenSkipped n e.valve 65535 2 d) := by
  subst hd
  unfold reopenScan normallyClosed
  dsimp only
  cases (valveOf e.valve (touchEntry nv .valve e.valve (beginPart c))).status <;>
    cases seen nv .valve e.valve (touchEntry nv .valve e.valve (beginPart c)) <;> rfl

theorem reopenList_live (h : incident? n c = some i) : reopenList nv n c =
    (sortBy (fun a b =>
      decide (rankOr nv 7 b (i.closure.foldl (reopenScan nv n) ([], c)).2
          < rankOr nv 7 a (i.closure.foldl (reopenScan nv n) ([], c)).2)
        || (rankOr nv 7 a (i.closure.foldl (reopenScan nv n) ([], c)).2
            == rankOr nv 7 b (i.closure.foldl (reopenScan nv n) ([], c)).2 && decide (b < a)))
      (i.closure.foldl (reopenScan nv n) ([], c)).1, (i.closure.foldl (reopenScan nv n) ([], c)).2) := by
  rw [reopenList, h]

theorem endIncident_live {r d : Core} {left : List Nat} (h : incident? n c = some i) (hr : r = removeIncident n (beginPart c))
    (hd : d = (attributedTo n r).foldl (returnChannel nv) r) (hleft : left = i.isolation.filter fun g => !covered g d) :
    endIncident nv n c = rerunDeferred nv (levelAlert (notify .incidentState n 65535 i.burst 0
      (left.foldl (testSegment nv) (luUpdate nv (left.foldl releaseSegment d))))) := by
  subst hleft hd hr
  unfold endIncident
  rw [h]
  rfl

theorem live_removeIncident (n : Nat) (c : Core) : live (removeIncident n c) = (live c).filter fun i => i.number ≠ n := by
  rw [live, removeIncident_ic_table, live, List.filter_map]
  rfl

theorem queue_removeIncident (n : Nat) (c : Core) : (removeIncident n c).ip.queue
    = c.ip.queue.filter fun o => (live c).any fun i => i.number ≠ n && i.order == o := by
  have left : live { c with ic := { c.ic with table := c.ic.table.filter fun p => p.2.number ≠ n } }
      = (live c).filter fun i => i.number ≠ n := live_removeIncident n c
  rw [removeIncident]
  simp only [left, List.any_filter]

end

end Sys2Proof.Machine

namespace Sys2Proof.Proofs

open Sys2Proof Sys2Proof.Machine Sys2Proof.Claims

theorem ruled_raise (q : Request) : Ruled (.raise q) q 0x20 2 fun nv c => doRaise nv q.args c :=
  ⟨fun _ => rfl, rfl, rfl, fun _ _ _ => rfl⟩

theorem ruled_release (q : Request) : Ruled (.release q) q 0x25 1 fun nv c => doRelease nv q.args c :=
  ⟨fun _ => rfl, rfl, rfl, fun _ _ _ => rfl⟩

/-- Settles O37: RAISE's checks in their order, and each step of a raising by its own equation. -/
theorem raiseChecksAndRaises : Obligations.RaiseChecksAndRaises := by
  refine ⟨?request, fun nv g score r cause c => ⟨raiseIncident_full, fun hfree => ?raises⟩,
    fun c => raiseNumber_spec, fun c => ⟨renumberOrders_below, fun htop => ?renumbers⟩,
    ?attributes, ?names, ?inhibits, fun nv g c hwf => ?segment, channelOf_setChannel⟩
  case request =>
    rintro q s g c ht rfl hc
    replace hc : c = raiseRead s.nv (u16 q.args 0) (closed s.core) := hc
    subst hc
    refine ⟨(ruled_raise q).wrongLength ht, fun hlength => ⟨fun hg => (ruled_raise q).answers ht hlength (doRaise_outside hg),
      fun hg hmode => (ruled_raise q).answers ht hlength (doRaise_halted (c := closed s.core) hg hmode),
      fun hg hmode => ⟨fun h => (ruled_raise q).answers ht hlength (doRaise_notFound (c := closed s.core) hg hmode h),
        fun r hseen hindex => ?_⟩⟩⟩
    have found := doRaise_found (c := closed s.core) hg hmode hseen hindex
    refine ⟨fun hcovered => (ruled_raise q).answers ht hlength (found.trans (if_pos hcovered)), fun hcovered hfull => ?_,
      fun hcovered hfree => ⟨_, _, rfl, rfl, ?_⟩⟩
    all_goals rw [if_neg (by simp [hcovered])] at found
    · exact (ruled_raise q).answers ht hlength (found.trans (if_pos hfull))
    · exact (ruled_raise q).answers ht hlength (found.trans (if_neg hfree))
  case raises =>
    obtain ⟨e, picks, hpick⟩ := pickEntry_eq_some hfree
    exact ⟨e, picks, _, _, _, Moves.pickEntry_free hpick, rfl, rfl, rfl, raiseIncident_picks hpick⟩
  case renumbers =>
    rw [renumberOrders_top htop]
    refine ⟨rfl, fun rank hrank => ?_⟩
    obtain rfl : rank = orderRank c := funext hrank
    refine ⟨by simp [live], rfl, fun o kind w hengine => ?_⟩
    simp only [hengine]
  case attributes =>
    rintro nv n g c d rfl
    exact ⟨attributeWitnesses_none, attributeWitnesses_listed⟩
  case names =>
    rintro nv n g a c d rfl
    refine ⟨nameWitness_unseen, ?_⟩
    rintro r i e hseen rfl he
    have named := nameWitness_seen (n := n) (g := g) hseen he
    refine ⟨fun h => ?_, fun hsound hindex hhome hstate => ?_⟩
    · rcases h with hsensor | hindex | hhome | hstate
      · exact named.trans (if_pos (.inl hsensor))
      · exact named.trans (if_pos (.inr (.inl hindex)))
      · exact named.trans (if_pos (.inr (.inr hhome)))
      · rw [named, if_neg hstate, ite_self]
    · rw [named, if_neg (by simp [hsound, hindex, hhome]), if_pos hstate]
  case inhibits =>
    rintro nv i c ch d rfl rfl
    exact ⟨fun n hstate hincident => inhibitChannel_attributed hstate hincident, inhibitChannel_tripped, inhibitChannel_other⟩
  case segment =>
    obtain ⟨hmem, hrises⟩ := channelsAt_filter hwf g fun i => (channelOf i c).state ≠ .inhibited
    exact ⟨_, fun i => by simpa using hmem i, hrises, rfl⟩

/-- Settles O40: RELEASE by the incident's state, and each step of restoring and ending by its own equation. -/
theorem releaseByState : Obligations.ReleaseByState := by
  refine ⟨fun q s ht => ⟨(ruled_release q).wrongLength ht, ?request⟩, ?restores, fun n i c hi hnodup v => ?claims, ?scans,
    ?lists, fun nv n vs c => ⟨if_pos rfl, fun hvs => if_neg hvs⟩, ?ends,
    fun n c => ⟨live_removeIncident n c, rfl, queue_removeIncident n c⟩,
    fun nv i c => ⟨rfl, channelOf_setChannel_same .., fun j hj => channelOf_setChannel_other hj ..⟩,
    fun n g c hwf => ⟨mem_attributedTo hwf n, ?rises, ?releases⟩⟩
  case request =>
    rintro hlength n rfl
    refine ⟨fun hn hnone => (ruled_release q).answers ht hlength (doRelease_none (c := closed s.core) ((if_neg hn).trans hnone)),
      fun hn hnone => (ruled_release q).answers ht hlength (doRelease_none (c := closed s.core) ?_), fun i hi => ?_⟩
    · have empty : ((live s.core).filter fun i => i.state = .isolated) = [] :=
        List.filter_eq_nil_iff.2 fun i hi => by simpa using hnone i hi
      rw [releaseTarget, if_pos hn]
      exact congrArg (fun is => (byOrder is).head?) empty
    · have target : releaseTarget (u8 q.args 0) (closed s.core) = some i := by
        obtain ⟨hn, hi⟩ | ⟨hn, hi⟩ := hi
        · exact (if_neg hn).trans hi
        · exact (if_pos hn).trans hi
      have release := doRelease_live (nv := s.nv) target
      refine ⟨fun hstate => (ruled_release q).taken ht hlength ?_, fun hstate => (ruled_release q).taken ht hlength ?_,
        fun hstate hkey => (ruled_release q).taken ht hlength ?_,
        fun hstate hkey => ⟨_, restored_restoreIncident .., (ruled_release q).taken ht hlength ?_⟩,
        fun hstate => (ruled_release q).answers ht hlength ?_,
        fun hstate => ⟨_, restored_restoreIncident .., (ruled_release q).taken ht hlength ?_⟩⟩
      · rw [release, releaseIncident, hstate]
      · rw [release, releaseIncident, hstate]
      · rw [release, releaseIncident, hstate]
        exact congrArg (takenFor s.nv i.number) (if_pos hkey)
      · rw [release, releaseIncident, hstate]
        exact congrArg (takenFor s.nv i.number) (if_neg hkey)
      · rw [release, releaseIncident, hstate]
        rfl
      · rw [release, releaseIncident]
        split
        all_goals simp_all
  case restores =>
    rintro nv n i c d hi rfl
    refine ⟨fun hmoving => ?_, fun hstill => ?_⟩
    · rw [enterRestoring_live hi, if_pos ((inFlight_iff n c).2 hmoving)]
      rfl
    · rw [enterRestoring_live hi, if_neg (by rw [(inFlight_eq_false n c).2 hstill]; exact Bool.false_ne_true)]
      rfl
  case claims =>
    rw [giveUpClaims, hi]
    exact valveOf_foldl_giveUpClaim v hnodup c
  case scans =>
    rintro nv n vs e c d x hd rfl
    have scan := reopenScan_eq nv n vs c e hd
    refine ⟨fun h => ?_, fun hclaims hposition hnormal => ?_⟩
    · rw [scan, if_pos]
      rw [normallyClosed_iff]
      exact h.imp_right Or.symm
    · rw [if_neg] at scan
      · refine ⟨fun hheld => scan.trans (if_pos hheld), fun hheld => ?_⟩
        rw [if_neg (by simp [hheld])] at scan
        refine ⟨fun hbad => ?_, fun hstatus r hseen => ?_⟩
        · rw [scan]
          split
          · rfl
          · next hfailed =>
            cases hs : seen nv .valve e.valve d with
            | value r => exact absurd hs (hbad.resolve_left hfailed r)
            | absent => rfl
            | poisoned => rfl
        · rw [scan, if_neg hstatus, hseen]
      · rw [normallyClosed_iff]
        rintro (h | ⟨r, hseen, h⟩ | h)
        · omega
        · exact hnormal r hseen h
        · exact hposition h
  case lists =>
    rintro nv n i c x hi rfl
    rw [reopenList_live hi]
    refine ⟨rfl, perm_sortBy .., (pairwise_sortBy (fun a b c hab hbc => ?_) (fun a b h => ?_) _).imp fun {a b} h => ?_⟩
    all_goals
      simp only [Bool.or_eq_false_iff, Bool.or_eq_true, Bool.and_eq_true, Bool.and_eq_false_iff, decide_eq_true_eq,
        decide_eq_false_iff_not, beq_iff_eq, beq_eq_false_iff_ne] at *
      omega
  case ends =>
    exact fun nv n i c r d left hi hr hd hleft => endIncident_live hi hr hd hleft
  case rises =>
    exact Sparse.pairwise_filter (Bool.and_eq_true_iff.1 hwf).1 _
  case releases =>
    obtain ⟨hmem, hrises⟩ := channelsAt_filter hwf g fun i => (channelOf i c).state = .inhibited
    exact ⟨_, fun i => by simpa using hmem i, hrises, rfl⟩

end Sys2Proof.Proofs
end

section
/-! What the outputs take, and how they come to rest (O20, O21). -/

namespace Sys2Proof.Machine

open Sys2Proof.Claims

/-! ### What awaits an output (01 R10, R14, R16) -/

theorem awaits_eq_some {p : Port} {b : Buffered} {f : List Byte} :
    b.awaits p = some f ↔ b = ⟨p.other, .forward f false⟩ := by
  obtain ⟨q, held⟩ := b
  cases held with
  | request st body => simp [Buffered.awaits]
  | forward g sending =>
    simp only [Buffered.awaits, Option.ite_none_right_eq_some, Option.some.injEq, Buffered.mk.injEq, Held.forward.injEq]
    exact ⟨fun ⟨⟨hq, hs⟩, hg⟩ => ⟨hq, hg, hs⟩, fun ⟨hq, hg, hs⟩ => ⟨⟨hq, hs⟩, hg⟩⟩

theorem noneAwaits_iff {p : Port} {bs : List Buffered} : NoneAwaits p bs ↔ ∀ b ∈ bs, b.awaits p = none := by
  simp only [NoneAwaits, Option.eq_none_iff_forall_ne_some, ne_eq, awaits_eq_some]

theorem findSome_awaits {p : Port} {bs : List Buffered} : bs.findSome? (Buffered.awaits p) = none ↔ NoneAwaits p bs := by
  rw [noneAwaits_iff, List.findSome?_eq_none_iff]

theorem waitsAt_eq_false {p : Port} {a : Answer} : a.waitsAt p = false ↔ (a.origin.port = p → a.sending = true) := by
  by_cases hp : a.origin.port = p <;> simp [Answer.waitsAt, hp]

theorem noneWaits_iff {p : Port} {as : List Answer} : NoneWaits p as ↔ ∀ a ∈ as, a.waitsAt p = false := by
  simp only [NoneWaits, waitsAt_eq_false]

theorem find_waitsAt {p : Port} {as : List Answer} : as.find? (Answer.waitsAt p) = none ↔ NoneWaits p as := by
  simp only [noneWaits_iff, List.find?_eq_none, Bool.not_eq_true]

/-! ### Arbitration, by what it prefers (01 R14) -/

/-- A port that is DOWN or whose output is SENDING takes nothing. -/
theorem arbitrate_off {p : Port} {s : State} (h : ¬(s.ring.isUp p = true ∧ (s.ring.port p).output = .idle)) :
    arbitrate p s = s := by
  unfold arbitrate
  exact if_neg h

section
variable {p : Port} {s : State} (hfree : s.ring.isUp p = true ∧ (s.ring.port p).output = .idle)
include hfree

theorem arbitrate_drive {d : DriveCopy} {ds : List DriveCopy} (h : (s.ring.port p).drives = d :: ds) :
    arbitrate p s = { s with ring := sendDrive s.nv p d s.ring } := by
  unfold arbitrate
  refine (if_pos hfree).trans ?_
  rw [h]

theorem arbitrate_forward {f : List Byte} (hd : (s.ring.port p).drives = [])
    (h : s.ring.buffers.findSome? (Buffered.awaits p) = some f) :
    arbitrate p s = { s with ring := startSending p f .forwarded { s.ring with buffers := markForward p s.ring.buffers } } := by
  unfold arbitrate
  refine (if_pos hfree).trans ?_
  rw [hd, h]

theorem arbitrate_answer {a : Answer} (hd : (s.ring.port p).drives = []) (hb : NoneAwaits p s.ring.buffers)
    (h : s.ring.answers.find? (Answer.waitsAt p) = some a) :
    arbitrate p s = { s with ring := sendAnswer s.nv p a s.ring } := by
  unfold arbitrate
  refine (if_pos hfree).trans ?_
  rw [hd, findSome_awaits.2 hb, h]

theorem arbitrate_notice {x : Notice} {ns : List Notice} (hd : (s.ring.port p).drives = [])
    (hb : NoneAwaits p s.ring.buffers) (ha : NoneWaits p s.ring.answers) (h : s.core.log.notices = x :: ns) :
    arbitrate p s = if s.ring.head.taken p then s else popHead { s with ring := sendNotice s.nv p x s.ring } := by
  unfold arbitrate
  refine (if_pos hfree).trans ?_
  rw [hd, findSome_awaits.2 hb, find_waitsAt.2 ha, h]

theorem arbitrate_nothing (hd : (s.ring.port p).drives = []) (hb : NoneAwaits p s.ring.buffers)
    (ha : NoneWaits p s.ring.answers) (h : s.core.log.notices = []) : arbitrate p s = s := by
  unfold arbitrate
  refine (if_pos hfree).trans ?_
  rw [hd, findSome_awaits.2 hb, find_waitsAt.2 ha, h]

end

/-! ### Headers and marks of what is taken (01 R5) -/

/-- A header kept is carried again; one completed now takes the own sequence. -/
theorem headerFor_taken {kept : Option Header} {dest : Byte} {s : State} {h : Header} {n : Byte}
    (ht : TakenUnder kept dest s h n) : headerFor s.nv dest kept s.ring = (h, { s.ring with ownSequence := n }) := by
  obtain ⟨rfl, rfl⟩ | ⟨rfl, rfl, rfl⟩ := ht <;> rfl

theorem noteHeader_eq (slot : Nat) (h : Header) (x : PortState) :
    noteHeader slot h x = { x with drives := x.drives.map (withHeader slot h) } := by
  have each (y : DriveCopy) :
      (if y.waitsFor slot && y.header.isNone then { y with header := some h } else y) = withHeader slot h y := by
    simp [withHeader, DriveCopy.waitsFor, and_assoc]
  simp only [noteHeader, each]

/-- The DRIVE copy taken leaves in transmission, and its header is noted in both queues. -/
theorem sendDrive_eq {s : State} {p : Port} {d : DriveCopy} {ds : List DriveCopy} {h : Header} {n : Byte}
    (hd : (s.ring.port p).drives = d :: ds) (ht : TakenUnder d.header (BitVec.ofNat 8 d.drive.station) s h n) :
    sendDrive s.nv p d s.ring = { ((s.ring.setPort p { s.ring.port p with
        output := .sending (mkFrame h 0x22 d.drive.body) .drive
        drives := { withHeader d.drive.slot h d with sending := true } :: ds.map (withHeader d.drive.slot h) }).setPort
      p.other { s.ring.port p.other with
        drives := (s.ring.port p.other).drives.map (withHeader d.drive.slot h) }) with ownSequence := n } := by
  unfold sendDrive
  rw [headerFor_taken ht]
  simp only [noteHeader_eq]
  cases p <;> simp only [Ring.port] at hd <;>
    simp [startSending, Ring.setPort, Ring.port, Port.other, hd, markDrive]

/-- The head notice taken by a port, before it leaves its queue. -/
theorem sendNotice_eq {s : State} {p : Port} {x : Notice} {h : Header} {n : Byte}
    (ht : TakenUnder s.ring.head.header (BitVec.ofNat 8 s.nv.settings.primary) s h n) :
    sendNotice s.nv p x s.ring = { (sendingAt p (mkFrame h 0x33 x.body) .notice s.ring) with
      ownSequence := n, head := { s.ring.head.take p with header := some h } } := by
  unfold sendNotice
  rw [headerFor_taken ht]
  cases p <;> rfl

theorem sendAnswer_eq (s : State) (p : Port) (a : Answer) : sendAnswer s.nv p a s.ring =
    { (sendingAt p (mkFrame (completed a.origin.station s) 0x32 a.body) .answer s.ring) with
      answers := markAnswer p s.ring.answers, ownSequence := s.ring.ownSequence + 1 } := by
  cases p <;> rfl

/-- The head leaves its queue once both ports have taken it. -/
theorem popHead_both {s : State} (h : ∀ p, s.ring.head.taken p = true) : popHead s = { s with
    core := { s.core with log := { s.core.log with notices := s.core.log.notices.drop 1 } }
    ring := { s.ring with head := ⟨false, false, none⟩ } } := by
  have he := h .east
  have hw := h .west
  simp only [Head.taken] at he hw
  rw [popHead, he, hw]
  rfl

theorem popHead_not {s : State} {p : Port} (h : s.ring.head.taken p = false) : popHead s = s := by
  cases p <;> simp only [Head.taken] at h <;> simp [popHead, h]

@[simp] theorem taken_take_same (h : Head) (p : Port) : (h.take p).taken p = true := by cases p <;> rfl

@[simp] theorem taken_take_other (h : Head) (p : Port) : (h.take p).taken p.other = h.taken p.other := by cases p <;> rfl

theorem taken_withHeader (h : Head) (k : Option Header) (p : Port) : ({ h with header := k } : Head).taken p = h.taken p := by
  cases p <;> rfl

/-- The ports in terms of one of them. -/
theorem forall_port {P : Port → Prop} (p : Port) : (∀ q, P q) ↔ P p ∧ P p.other := by
  constructor
  · exact fun h => ⟨h p, h p.other⟩
  · rintro ⟨h, k⟩ q
    cases p <;> cases q <;> assumption

/-- A head that one port alone has taken. -/
theorem take_alone {h : Head} {p : Port} (ho : h.taken p.other = false) :
    h.take p = ⟨decide (p = .east), decide (p = .west), h.header⟩ := by
  cases p <;> simp_all [Head.take, Head.taken, Port.other]

/-! ### The discarding of the head at a DOWN port (01 R17) -/

/-- A port that discards the head notice: its link is DOWN and the other one's UP. -/
def Discards (p : Port) (s : State) : Prop :=
  s.core.log.notices ≠ [] ∧ s.ring.isUp p = false ∧ s.ring.isUp p.other = true

theorem discardHead_idle {p : Port} {s : State} (h : ¬Discards p s) : discardHead p s = s := if_neg h

theorem discardHead_takes {p : Port} {s : State} (h : Discards p s) :
    discardHead p s = popHead { s with ring := { s.ring with head := s.ring.head.take p } } := if_pos h

theorem discardHead_alone {p : Port} {s : State} (h : Discards p s) (ho : s.ring.head.taken p.other = false) :
    discardHead p s = { s with ring := { s.ring with
      head := ⟨decide (p = .east), decide (p = .west), s.ring.head.header⟩ } } := by
  have left : popHead { s with ring := { s.ring with head := s.ring.head.take p } }
      = { s with ring := { s.ring with head := s.ring.head.take p } } :=
    popHead_not (p := p.other) (by rw [taken_take_other]; exact ho)
  rw [discardHead_takes h, left, take_alone ho]

theorem discardHead_last {p : Port} {s : State} (h : Discards p s) (ho : s.ring.head.taken p.other = true) :
    discardHead p s = { s with
      core := { s.core with log := { s.core.log with notices := s.core.log.notices.drop 1 } }
      ring := { s.ring with head := ⟨false, false, none⟩ } } := by
  rw [discardHead_takes h, popHead_both]
  exact (forall_port p).2 ⟨taken_take_same .., by rw [taken_take_other]; exact ho⟩

/-! ### How much is left to take: what brings the outputs to rest (01 R14, R17; log 16) -/

/-- What a port can still do: two, where its output may take a frame; and to the head notice, where it is DOWN and the other UP,
nothing where it alone has taken the head, one where none has, two where the other has, since the head then leaves and the next
comes. -/
def portWeight (p : Port) (r : Ring) : Nat :=
  if r.isUp p then if (r.port p).output = .idle then 2 else 0
  else if r.isUp p.other then if r.head.taken p.other then 2 else if r.head.taken p then 0 else 1
  else 0

/-- The measure that every taking of a frame and every discarding of a head lowers. -/
def unrest (r : Ring) : Nat := portWeight .east r + portWeight .west r

theorem unrest_eq (p : Port) (r : Ring) : unrest r = portWeight p r + portWeight p.other r := by
  cases p
  · rfl
  · exact Nat.add_comm ..

theorem portWeight_free {p : Port} {r : Ring} (h : r.isUp p = true ∧ (r.port p).output = .idle) : portWeight p r = 2 := by
  simp [portWeight, h]

theorem portWeight_busy {p : Port} {r : Ring} (h : r.isUp p = true) (ho : (r.port p).output ≠ .idle) :
    portWeight p r = 0 := by
  simp [portWeight, h, ho]

theorem portWeight_le (p : Port) (r : Ring) : portWeight p r ≤ 2 := by
  unfold portWeight
  repeat' split
  all_goals omega

theorem unrest_le (r : Ring) : unrest r ≤ 4 := Nat.add_le_add (portWeight_le .east r) (portWeight_le .west r)

/-- A step of the outputs that changes nothing or lowers the unrest. -/
def Calms (f : State → State) : Prop := ∀ s, f s = s ∨ unrest (f s).ring < unrest s.ring

theorem Calms.le {f : State → State} (h : Calms f) (s : State) : unrest (f s).ring ≤ unrest s.ring := by
  rcases h s with h | h
  · exact Nat.le_of_eq (by rw [h])
  · exact Nat.le_of_lt h

theorem Calms.comp {f g : State → State} (hf : Calms f) (hg : Calms g) : Calms fun s => f (g s) := by
  intro s
  rcases hg s with h | h
  · dsimp only
    rw [h]
    exact hf s
  · exact .inr (Nat.lt_of_le_of_lt (hf.le _) h)

/-- Two steps that together change nothing change nothing each. -/
theorem Calms.fixed {f g : State → State} (hf : Calms f) (hg : Calms g) {s : State} (h : f (g s) = s) : g s = s ∧ f s = s := by
  rcases hg s with hs | hs
  · exact ⟨hs, by rwa [hs] at h⟩
  · have hle := hf.le (g s)
    rw [h] at hle
    exact absurd hs (Nat.not_lt.2 hle)

/-- A step of the outputs taken so many times. -/
def repeated (f : State → State) : Nat → State → State
  | 0, s => s
  | n + 1, s => repeated f n (f s)

theorem repeated_fixed {f : State → State} {s : State} (h : f s = s) : ∀ n, repeated f n s = s
  | 0 => rfl
  | n + 1 => by rw [repeated, h, repeated_fixed h n]

/-- As many rounds as the unrest bring a state to rest. -/
theorem Calms.rests {f : State → State} (hf : Calms f) :
    ∀ (n : Nat) {s : State}, unrest s.ring ≤ n → f (repeated f n s) = repeated f n s
  | 0, s, h => (hf s).resolve_right (Nat.not_lt.2 (Nat.le_trans h (Nat.zero_le _)))
  | n + 1, s, h => by
    rcases hf s with hs | hs
    · rw [repeated_fixed hs, hs]
    · exact hf.rests n (s := f s) (by omega)

/-! ### Every taking and every discarding lowers the unrest -/

theorem exists_takenUnder (kept : Option Header) (dest : Byte) (s : State) : ∃ h n, TakenUnder kept dest s h n := by
  cases kept with
  | some h => exact ⟨h, _, .inl ⟨rfl, rfl⟩⟩
  | none => exact ⟨_, _, .inr ⟨rfl, rfl, rfl⟩⟩

/-- What an output that takes a frame does to the ring: it is SENDING, the other output is as it was, and so is the head, unless
the port had not taken it and has taken it now, or the head has left. -/
structure Took (p : Port) (r q : Ring) : Prop where
  up : ∀ o, q.isUp o = r.isUp o
  sending : (q.port p).output ≠ .idle
  other : (q.port p.other).output = (r.port p.other).output
  head : (∀ o, q.head.taken o = r.head.taken o)
    ∨ (r.head.taken p = false ∧ r.head.taken p.other = false) ∨ (r.head.taken p = false ∧ ∀ o, q.head.taken o = false)

theorem Took.lowers {p : Port} {r q : Ring} (h : Took p r q) (hfree : r.isUp p = true ∧ (r.port p).output = .idle) :
    unrest q < unrest r := by
  have hq : portWeight p q = 0 := portWeight_busy (by rw [h.up, hfree.1]) h.sending
  have ho : portWeight p.other q ≤ portWeight p.other r + 1 := by
    have hback : p.other.other = p := by cases p <;> rfl
    unfold portWeight
    rw [h.up, h.up, h.other, hback, hfree.1]
    rcases h.head with hh | ⟨hp, ho⟩ | ⟨hp, hn⟩
    · rw [hh, hh]
      exact Nat.le_succ _
    · rw [hp, ho]
      split
      · exact Nat.le_succ _
      · simp only [if_true, Bool.false_eq_true, if_false]
        split <;> (try split) <;> omega
    · rw [hn, hn, hp]
      split
      · exact Nat.le_succ _
      · simp only [if_true, Bool.false_eq_true, if_false]
        omega
  rw [unrest_eq p q, unrest_eq p r, hq, portWeight_free hfree]
  omega

@[simp] theorem taken_none (k : Option Header) (p : Port) : (⟨false, false, k⟩ : Head).taken p = false := by cases p <;> rfl

theorem isUp_setPort {r : Ring} {p : Port} {x : PortState} (hx : x.up = (r.port p).up) (o : Port) :
    (r.setPort p x).isUp o = r.isUp o := by
  cases p <;> cases o
  · exact hx
  · rfl
  · rfl
  · exact hx

/-- An output that sends a frame, whatever else of the ring changes that is not a port or the head. -/
theorem took_sendingAt {p : Port} {f : List Byte} {what : Sent} {r q : Ring} (he : q.east = (sendingAt p f what r).east)
    (hw : q.west = (sendingAt p f what r).west)
    (hh : (∀ o, q.head.taken o = r.head.taken o)
      ∨ (r.head.taken p = false ∧ r.head.taken p.other = false) ∨ (r.head.taken p = false ∧ ∀ o, q.head.taken o = false)) :
    Took p r q := by
  refine ⟨fun o => ?_, ?_, ?_, hh⟩
  · exact (Acts.isUp_eq he hw o).trans (isUp_setPort (x := { r.port p with output := .sending f what }) rfl o)
  · cases p <;> simp [Ring.port, he, hw, sendingAt, Ring.setPort]
  · cases p <;> simp [Ring.port, Port.other, he, hw, sendingAt, Ring.setPort]

/-- An IDLE output of an UP port takes a frame or has none to take. -/
theorem arbitrate_took {p : Port} {s : State} (hfree : s.ring.isUp p = true ∧ (s.ring.port p).output = .idle) :
    ((s.ring.port p).drives = [] ∧ NoneAwaits p s.ring.buffers ∧ NoneWaits p s.ring.answers
        ∧ (s.core.log.notices = [] ∨ s.ring.head.taken p = true) ∧ arbitrate p s = s)
      ∨ Took p s.ring (arbitrate p s).ring := by
  cases hd : (s.ring.port p).drives with
  | cons d ds =>
    obtain ⟨h, n, ht⟩ := exists_takenUnder d.header (BitVec.ofNat 8 d.drive.station) s
    refine .inr ?_
    rw [arbitrate_drive hfree hd, sendDrive_eq hd ht]
    refine ⟨fun o => ?_, ?_, ?_, .inl fun o => ?_⟩
    · cases p <;> cases o <;> rfl
    · cases p <;> simp [Ring.port, Ring.setPort, Port.other]
    · cases p <;> simp [Ring.port, Ring.setPort, Port.other]
    · simp
  | nil =>
    cases hb : s.ring.buffers.findSome? (Buffered.awaits p) with
    | some f =>
      refine .inr ?_
      rw [arbitrate_forward hfree hd hb]
      exact took_sendingAt (by cases p <;> rfl) (by cases p <;> rfl) (.inl fun o => by cases p <;> rfl)
    | none =>
      have hb := findSome_awaits.1 hb
      cases ha : s.ring.answers.find? (Answer.waitsAt p) with
      | some a =>
        refine .inr ?_
        rw [arbitrate_answer hfree hd hb ha, sendAnswer_eq]
        exact took_sendingAt rfl rfl (.inl fun o => by simp [sendingAt])
      | none =>
        have ha := find_waitsAt.1 ha
        cases hn : s.core.log.notices with
        | nil => exact .inl ⟨rfl, hb, ha, .inl rfl, arbitrate_nothing hfree hd hb ha hn⟩
        | cons x ns =>
          rw [arbitrate_notice hfree hd hb ha hn]
          cases ht : s.ring.head.taken p with
          | true => exact .inl ⟨rfl, hb, ha, .inr rfl, if_pos rfl⟩
          | false =>
            refine .inr ?_
            obtain ⟨h, n, hh⟩ := exists_takenUnder s.ring.head.header (BitVec.ofNat 8 s.nv.settings.primary) s
            rw [if_neg Bool.false_ne_true, sendNotice_eq hh]
            cases ho : s.ring.head.taken p.other with
            | false =>
              rw [popHead_not (p := p.other) (by rw [taken_withHeader, taken_take_other]; exact ho)]
              exact took_sendingAt rfl rfl (.inr (.inl ⟨ht, ho⟩))
            | true =>
              rw [popHead_both ((forall_port p).2 ⟨by rw [taken_withHeader, taken_take_same],
                by rw [taken_withHeader, taken_take_other]; exact ho⟩)]
              exact took_sendingAt rfl rfl (.inr (.inr ⟨ht, fun o => taken_none none o⟩))

theorem calms_arbitrate (p : Port) : Calms (arbitrate p) := by
  intro s
  by_cases hfree : s.ring.isUp p = true ∧ (s.ring.port p).output = .idle
  · rcases arbitrate_took hfree with ⟨-, -, -, -, h⟩ | h
    · exact .inl h
    · exact .inr (h.lowers hfree)
  · exact .inl (arbitrate_off hfree)

/-- A port that is DOWN while the other is UP weighs by the head alone. -/
theorem portWeight_down {p : Port} {r : Ring} (h : r.isUp p = false) (ho : r.isUp p.other = true) :
    portWeight p r = if r.head.taken p.other then 2 else if r.head.taken p then 0 else 1 := by
  simp [portWeight, h, ho]

/-- A change of the head that lowers what it weighs at a DOWN port. -/
theorem unrest_head {p : Port} {r : Ring} (hd : r.isUp p = false) (hu : r.isUp p.other = true) {h : Head}
    (hlt : (if h.taken p.other then 2 else if h.taken p then 0 else 1)
      < if r.head.taken p.other then 2 else if r.head.taken p then 0 else 1) :
    unrest { r with head := h } < unrest r := by
  have other : portWeight p.other { r with head := h } = portWeight p.other r := by
    have hu' : ({ r with head := h } : Ring).isUp p.other = true := by cases p <;> exact hu
    rw [portWeight, portWeight, if_pos hu, if_pos hu']
    cases p <;> rfl
  have own : portWeight p { r with head := h } = if h.taken p.other then 2 else if h.taken p then 0 else 1 :=
    portWeight_down (by cases p <;> exact hd) (by cases p <;> exact hu)
  rw [unrest_eq p, unrest_eq p r, other, own, portWeight_down hd hu]
  omega

theorem head_alone {h : Head} {p : Port} (ht : h.taken p = true) (ho : h.taken p.other = false) :
    (⟨decide (p = .east), decide (p = .west), h.header⟩ : Head) = h := by
  obtain ⟨e, w, k⟩ := h
  cases p <;> simp_all [Head.taken, Port.other]

theorem calms_discardHead (p : Port) : Calms (discardHead p) := by
  intro s
  by_cases h : Discards p s
  · obtain ⟨hn, hd, hu⟩ := id h
    cases ho : s.ring.head.taken p.other with
    | true =>
      rw [discardHead_last h ho]
      exact .inr (unrest_head hd hu (by simp [ho]))
    | false =>
      rw [discardHead_alone h ho]
      cases ht : s.ring.head.taken p with
      | true => exact .inl (by rw [head_alone ht ho])
      | false => exact .inr (unrest_head hd hu (by rw [← take_alone ho]; simp [ho, ht]))
  · exact .inl (discardHead_idle h)

theorem calms_takingRound : Calms takingRound :=
  (calms_arbitrate .west).comp ((calms_arbitrate .east).comp ((calms_discardHead .west).comp (calms_discardHead .east)))

/-- Four rounds bring any state to rest. -/
theorem takingRound_rests (s : State) :
    takingRound (takingRound (takingRound (takingRound (takingRound s))))
      = takingRound (takingRound (takingRound (takingRound s))) :=
  calms_takingRound.rests 4 (unrest_le s.ring)

/-- A state that a round leaves is left by each of its steps. -/
theorem steps_of_takingRound {s : State} (h : takingRound s = s) (p : Port) : discardHead p s = s ∧ arbitrate p s = s := by
  have calm := (calms_discardHead .west).comp (calms_discardHead .east)
  obtain ⟨h₁, hw⟩ := (calms_arbitrate .west).fixed ((calms_arbitrate .east).comp calm) h
  obtain ⟨h₂, he⟩ := (calms_arbitrate .east).fixed calm h₁
  obtain ⟨hde, hdw⟩ := (calms_discardHead .west).fixed (calms_discardHead .east) h₂
  cases p
  · exact ⟨hde, he⟩
  · exact ⟨hdw, hw⟩

/-! ### The rounds leave the orders of the Drive Sequencer -/

theorem popHead_ds (s : State) : (popHead s).core.ds = s.core.ds := by
  unfold popHead
  split <;> rfl

theorem discardHead_ds (p : Port) (s : State) : (discardHead p s).core.ds = s.core.ds := by
  unfold discardHead
  split
  · exact popHead_ds _
  · rfl

theorem arbitrate_ds (p : Port) (s : State) : (arbitrate p s).core.ds = s.core.ds := by
  unfold arbitrate
  dsimp only
  split
  · split
    · rfl
    · rfl
    · rfl
    · split
      · rfl
      · exact popHead_ds _
    · rfl
  · rfl

theorem takingRound_ds (s : State) : (takingRound s).core.ds = s.core.ds := by
  simp only [takingRound, arbitrate_ds, discardHead_ds]

theorem settle_outbox (s : State) : (settle s).core.ds.outbox = [] := by
  have e : (settle s).core.ds = (deliver s).core.ds := by
    change (takingRound (takingRound (takingRound (takingRound (deliver s))))).core.ds = _
    simp only [takingRound_ds]
  rw [e, deliver_core_ds_outbox]

end Sys2Proof.Machine

namespace Sys2Proof.Proofs

open Sys2Proof Sys2Proof.Machine Sys2Proof.Claims

/-- Settles O20, by the case of `arbitrate` for each kind that it prefers. -/
theorem outputsPreferByKind : Obligations.OutputsPreferByKind := by
  intro p s
  refine ⟨fun h => arbitrate_off fun ⟨hup, hidle⟩ => ?_, fun hup hidle => ?_⟩
  · rcases h with h | h
    · exact Bool.false_ne_true (h.symm.trans hup)
    · exact h hidle
  have hfree := And.intro hup hidle
  refine ⟨fun d ds h n hd ht => ?_, fun pre g post hd hb hpre => ?_, fun pre a post hd hb ha hpre hp hs => ?_,
    fun x ns hd hb ha hn => ?_, fun hd hb ha hn => arbitrate_nothing hfree hd hb ha hn⟩
  · rw [arbitrate_drive hfree hd, sendDrive_eq hd ht]
  · have found : s.ring.buffers.findSome? (Buffered.awaits p) = some g := by
      rw [hb, List.findSome?_append, findSome_awaits.2 hpre, Option.none_or, List.findSome?_cons, awaits_eq_some.2 rfl]
    rw [arbitrate_forward hfree hd found, hb, markForward_first (noneAwaits_iff.1 hpre)]
    cases p <;> rfl
  · have waits : a.waitsAt p = true := by simp [Answer.waitsAt, hp, hs]
    have found : s.ring.answers.find? (Answer.waitsAt p) = some a := by
      rw [ha, List.find?_append, find_waitsAt.2 hpre, Option.none_or, List.find?_cons_of_pos waits]
    rw [arbitrate_answer hfree hd hb found, sendAnswer_eq, ha, markAnswer_first waits (noneWaits_iff.1 hpre)]
  · rw [arbitrate_notice hfree hd hb ha hn]
    refine ⟨fun ht => if_pos ht, fun ht h n r hh hr => ?_⟩
    rw [if_neg fun h' => Bool.false_ne_true (ht.symm.trans h'), sendNotice_eq hh, hr]
    refine ⟨fun ho => ?_, fun ho => ?_⟩
    · rw [popHead_not (p := p.other) (by rw [taken_withHeader, taken_take_other]; exact ho), take_alone ho]
    · rw [popHead_both ((forall_port p).2 ⟨by rw [taken_withHeader, taken_take_same],
        by rw [taken_withHeader, taken_take_other]; exact ho⟩), hn]
      rfl

/-- Settles O21: the fourth round leaves nothing to take, since each that changes anything lowers the unrest, at most four. -/
theorem outputsComeToRest : Obligations.OutputsComeToRest := by
  refine ⟨fun s p => ?_, fun s u takings hu htakings => ?_, fun p s => ⟨fun h => discardHead_idle ?_, fun x ns hn hd ho => ?_⟩⟩
  · obtain ⟨hdiscard, harb⟩ := steps_of_takingRound (takingRound_rests (deliver s)) p
    have hring : (settle s).ring = (takingRound (takingRound (takingRound (takingRound (deliver s))))).ring := rfl
    have hnotices : (settle s).core.log.notices
        = (takingRound (takingRound (takingRound (takingRound (deliver s))))).core.log.notices := rfl
    rw [hring, hnotices]
    generalize takingRound (takingRound (takingRound (takingRound (deliver s)))) = v at hdiscard harb ⊢
    refine ⟨fun hup hidle => ?_, fun hdown hother => ?_⟩
    · rcases arbitrate_took ⟨hup, hidle⟩ with ⟨hd, hb, ha, hn, -⟩ | took
      · exact ⟨hd, hb, ha, hn⟩
      · rw [harb] at took
        exact absurd hidle took.sending
    · by_cases hn : v.core.log.notices = []
      · exact .inl hn
      · have h : Discards p v := ⟨hn, hdown, hother⟩
        refine .inr ?_
        cases ho : v.ring.head.taken p.other with
        | true =>
          have hlt := congrArg (fun t => t.core.log.notices.length) (hdiscard.symm.trans (discardHead_last h ho))
          have hpos := List.length_pos_iff.2 hn
          simp only [List.length_drop] at hlt
          omega
        | false =>
          have hh := congrArg (fun t => t.ring.head.taken p) (hdiscard.symm.trans (discardHead_alone h ho))
          dsimp only at hh
          rw [hh, ← take_alone ho, taken_take_same]
  · subst hu
    obtain rfl : takings = takingRound := funext htakings
    refine ⟨rfl, settle_outbox s, fun v hv => ?_⟩
    subst hv
    exact ⟨takingRound_rests _, rfl⟩
  · rintro ⟨hn, hd, ho⟩
    rcases h with h | h | h
    · exact hn h
    · exact Bool.false_ne_true (hd.symm.trans h)
    · exact Bool.false_ne_true (h.symm.trans ho)
  · have h : Discards p s := ⟨by rw [hn]; exact List.cons_ne_nil x ns, hd, ho⟩
    refine ⟨fun ht => ?_, discardHead_alone h⟩
    rw [discardHead_last h ht, hn]
    rfl

end Sys2Proof.Proofs
end

section
/-! Answers that leave the queue: the soft reset (O10), links (O11) and ends of transmissions (O19). -/

namespace Sys2Proof.Machine

open Sys2Proof.Claims

/-! ### What follows answers that left the queue (01 R3, R16; 09 R174, R183) -/

/-- The state once answers have left the queue, none or some. -/
def afterLeaving (gone : List Answer) (s : State) : State :=
  if gone.isEmpty then s else answerLeft (anySoftReset gone) s

theorem anySoftReset_eq_false {as : List Answer} : anySoftReset as = false ↔ ∀ a ∈ as, a.softReset = false := by
  simp [anySoftReset]

theorem anySoftReset_of_mem {as : List Answer} {a : Answer} (h : a ∈ as) (hs : a.softReset = true) : anySoftReset as = true :=
  List.any_eq_true.2 ⟨a, h, hs⟩

section
variable {gone : List Answer} {s : State}

/-- With no answer gone, none in hand, or the queue still full, the handler goes on as it was. -/
theorem afterLeaving_kept (hs : ∀ a ∈ gone, a.softReset = false)
    (h : gone = [] ∨ (∀ w, s.handler ≠ .waiting w) ∨ 4 ≤ s.ring.answers.length) : afterLeaving gone s = s := by
  unfold afterLeaving
  split
  · rfl
  · next hne =>
    rw [anySoftReset_eq_false.2 hs]
    unfold answerLeft
    rw [if_neg Bool.false_ne_true]
    split
    · next w hw =>
      refine if_neg (Nat.not_lt.2 ?_)
      rcases h with h | h | h
      · exact absurd (List.isEmpty_iff.2 h) hne
      · exact absurd hw (h w)
      · exact h
    · rfl

/-- The answer in hand joins the queue, and the held requests are taken. -/
theorem afterLeaving_joins {w : Answer} (hs : ∀ a ∈ gone, a.softReset = false) (hne : gone ≠ []) (hw : s.handler = .waiting w)
    (hroom : s.ring.answers.length < 4) : afterLeaving gone s = serve (joinAnswers w s) := by
  rw [afterLeaving, if_neg fun h => hne (List.isEmpty_iff.1 h), anySoftReset_eq_false.2 hs, answerLeft, if_neg Bool.false_ne_true,
    hw]
  exact if_pos hroom

/-- Where the answer to SOFT RESET left, the soft reset takes place. -/
theorem afterLeaving_reset {a : Answer} (ha : a ∈ gone) (hs : a.softReset = true) : afterLeaving gone s = softResetState s := by
  rw [afterLeaving, if_neg fun h => List.ne_nil_of_mem ha (List.isEmpty_iff.1 h), anySoftReset_of_mem ha hs, answerLeft, if_pos rfl]
  rfl

end

theorem joinAnswers_bound {w : Answer} {s : State} (h : s.ring.isUp w.origin.port = true) :
    joinAnswers w s = { s with
      ring := { s.ring with answers := s.ring.answers ++ [w] }
      handler := if w.softReset then .resetPending else .ready } := by
  rw [joinAnswers, bindPort, if_pos h]

/-! ### Links and lines while answers join and held requests are taken -/

/-- The links and the power and reset lines are as they were. -/
structure LinksKept (s t : State) : Prop where
  up : ∀ p, t.ring.isUp p = s.ring.isUp p
  lines : t.lines = s.lines

theorem LinksKept.trans {s t u : State} (h : LinksKept s t) (k : LinksKept t u) : LinksKept s u :=
  ⟨fun p => (k.up p).trans (h.up p), k.lines.trans h.lines⟩

theorem linksKept_softReset (s : State) : LinksKept s (softReset s) := ⟨fun p => by cases p <;> rfl, rfl⟩

theorem linksKept_joinAnswers (a : Answer) (s : State) : LinksKept s (joinAnswers a s) := by
  unfold joinAnswers
  split
  · exact ⟨fun p => by cases p <;> rfl, rfl⟩
  · split
    · exact linksKept_softReset s
    · exact ⟨fun p => rfl, rfl⟩

theorem linksKept_handAnswer (a : Answer) (s : State) : LinksKept s (handAnswer a s) := by
  unfold handAnswer
  split
  · exact linksKept_joinAnswers a s
  · exact ⟨fun _ => rfl, rfl⟩

theorem linksKept_takeRequest (p : Port) (station : Byte) (body : List Byte) (s : State) :
    LinksKept s (takeRequest p station body s) := by
  have carried : LinksKept s { s with nv := (carriedOut p station body s).nv, core := (carriedOut p station body s).core } :=
    ⟨fun _ => rfl, rfl⟩
  rw [takeRequest_carriedOut]
  refine carried.trans ?_
  unfold handReply
  split
  · exact linksKept_handAnswer ..
  · exact ⟨fun _ => rfl, rfl⟩
  · exact linksKept_handAnswer ..

theorem linksKept_endEvent (s : State) : LinksKept s (endEvent s) := ⟨fun _ => rfl, rfl⟩

theorem linksKept_takeRequests : ∀ (n : Nat) (s : State), LinksKept s (takeRequests n s)
  | 0, s => ⟨fun _ => rfl, rfl⟩
  | n + 1, s => by
    unfold takeRequests
    split
    · next p station body rest _ _ =>
      have fewer : LinksKept s { s with ring := { s.ring with buffers := rest } } := ⟨fun o => by cases o <;> rfl, rfl⟩
      have taken := fewer.trans (linksKept_takeRequest p station body _)
      exact (taken.trans (linksKept_endEvent _)).trans (linksKept_takeRequests n _)
    · exact ⟨fun _ => rfl, rfl⟩

theorem linksKept_afterLeaving (gone : List Answer) (s : State) : LinksKept s (afterLeaving gone s) := by
  unfold afterLeaving answerLeft
  split
  · exact ⟨fun _ => rfl, rfl⟩
  · split
    · exact linksKept_softReset s
    · split
      · split
        · exact (linksKept_joinAnswers ..).trans (linksKept_takeRequests ..)
        · exact ⟨fun _ => rfl, rfl⟩
      · exact ⟨fun _ => rfl, rfl⟩

/-! ### Ends of transmissions (01 R14) -/

theorem transmissionEnds_sending {p : Port} {s : State} {f : List Byte} {what : Sent}
    (h : (s.ring.port p).output = .sending f what) :
    transmissionEnds p s = releaseSent p what { s with ring := idleOutput p s.ring } := by
  rw [transmissionEnds, h]

/-- The ring once the answers in transmission at a port have left it. -/
def answersSent (p : Port) (r : Ring) : Ring :=
  { (r.setPort p { r.port p with output := .idle }) with
    answers := r.answers.filter fun a => !(a.origin.port == p && a.sending) }

theorem transmissionEnds_answer {p : Port} {s : State} {f : List Byte} (h : (s.ring.port p).output = .sending f .answer) :
    transmissionEnds p s
      = afterLeaving (s.ring.answers.filter (Answer.sentAt p)) { s with ring := answersSent p s.ring } := by
  rw [transmissionEnds_sending h]
  cases p <;> rfl

theorem mem_sentAt {p : Port} {as : List Answer} {a : Answer} :
    a ∈ as.filter (Answer.sentAt p) ↔ a ∈ as ∧ a.origin.port = p ∧ a.sending = true := by
  simp [List.mem_filter, Answer.sentAt]

theorem sentAt_eq_nil {p : Port} {as : List Answer} :
    as.filter (Answer.sentAt p) = [] ↔ ∀ a ∈ as, ¬(a.origin.port = p ∧ a.sending = true) := by
  simp [List.filter_eq_nil_iff, Answer.sentAt]

/-- The buffer in transmission at a port is freed, and no other. -/
theorem dropForward_first {p : Port} {g : List Byte} {post : List Buffered} : ∀ {pre : List Buffered},
    (∀ b ∈ pre, ∀ h, b ≠ (⟨p.other, .forward h true⟩ : Buffered)) →
    dropForward p (pre ++ ⟨p.other, .forward g true⟩ :: post) = pre ++ post
  | [], _ => by simp [dropForward]
  | ⟨q, held⟩ :: pre, hpre => by
    have rest := dropForward_first (g := g) (post := post) fun b hb => hpre b (List.mem_cons_of_mem _ hb)
    have kept : dropForward p (⟨q, held⟩ :: (pre ++ ⟨p.other, .forward g true⟩ :: post))
        = ⟨q, held⟩ :: dropForward p (pre ++ ⟨p.other, .forward g true⟩ :: post) := by
      cases held with
      | request st body => rfl
      | forward h sending =>
        cases sending with
        | false => rfl
        | true => exact if_neg fun hq => hpre _ List.mem_cons_self h (congrArg (fun q => (⟨q, .forward h true⟩ : Buffered)) hq)
    rw [List.cons_append, kept, rest, List.cons_append]

/-! ### Links (01 R1, R18) -/

theorem linkComesUp_takes {p : Port} {s : State} (hb : s.ring.bypass = false) (hd : s.ring.isUp p = false) :
    linkComesUp p s = { s with ring := s.ring.setPort p { s.ring.port p with up := true } } := by
  rw [linkComesUp, if_neg (by simp [hb, hd])]

theorem linkComesUp_idle {p : Port} {s : State} (h : s.ring.bypass = true ∨ s.ring.isUp p = true) : linkComesUp p s = s :=
  if_pos h

theorem linkGoesDown_idle {p : Port} {s : State} (h : s.ring.isUp p = false) : linkGoesDown p s = s :=
  if_neg fun h' => Bool.false_ne_true (h.symm.trans h')

theorem rebind_eq (p : Port) (otherUp : Bool) : ∀ as : List Answer, rebind p otherUp as = as.filterMap fun a =>
    if a.origin.port = p then
      if a.sending = true ∨ otherUp = false then none else some { a with origin := { a.origin with port := p.other } }
    else some a
  | [] => rfl
  | a :: as => by
    have ih := rebind_eq p otherUp as
    unfold rebind at ih ⊢
    rw [List.filterMap_cons, ← ih]
    by_cases hp : a.origin.port = p
    · by_cases hs : a.sending = true ∨ otherUp = false
      · rw [List.filter_cons_of_neg (by rcases hs with hs | hs <;> simp [hp, hs]), if_pos hp, if_pos hs]
      · rw [List.filter_cons_of_pos (by simpa [hp, not_or] using hs), if_pos hp, if_neg hs, List.map_cons, if_pos hp]
    · rw [List.filter_cons_of_pos (by simp [hp]), if_neg hp, List.map_cons, if_neg hp]

/-- The answers that a link going down discards (01 R18). -/
def lostAt (p : Port) (r : Ring) : List Answer :=
  r.answers.filter fun a => a.origin.port == p && (a.sending || !r.isUp p.other)

theorem mem_lostAt {p : Port} {r : Ring} {a : Answer} : a ∈ lostAt p r ↔ LostAt p r a := by
  simp [lostAt, LostAt, List.mem_filter]

theorem lostAt_eq_nil {p : Port} {r : Ring} : lostAt p r = [] ↔ ∀ a, ¬LostAt p r a := by
  simp only [List.eq_nil_iff_forall_not_mem, mem_lostAt]

theorem linkGoesDown_eq {p : Port} {s : State} (h : s.ring.isUp p = true) :
    linkGoesDown p s = afterLeaving (lostAt p s.ring) { s with ring := downed p s.ring } := by
  rw [linkGoesDown, if_pos h]
  dsimp only
  rw [rebind_eq]
  rfl

theorem isUp_downed (p : Port) (r : Ring) : (downed p r).isUp p = false := by cases p <;> rfl

end Sys2Proof.Machine

namespace Sys2Proof.Proofs

open Sys2Proof Sys2Proof.Machine Sys2Proof.Claims

/-- Settles O11: what goes with a link is the model's `linkGoesDown`, and what follows the answers lost with it is `afterLeaving`. -/
theorem linksComeUpAndGoDown : Obligations.LinksComeUpAndGoDown := by
  have down (p : Port) (s : State) (h : s.ring.isUp p = true) : exec (.linkDown p) s
      = .next (settle (afterLeaving (lostAt p s.ring) { s with ring := downed p s.ring })) :=
    congrArg (fun t => Host.Outcome.next (settle t)) (linkGoesDown_eq h)
  have off (p : Port) (s : State) (h : s.ring.isUp p = false) : exec (.linkDown p) s = .next (settle s) :=
    congrArg (fun t => Host.Outcome.next (settle t)) (linkGoesDown_idle h)
  refine ⟨fun p s hb hd => congrArg (fun t => Host.Outcome.next (settle t)) (linkComesUp_takes hb hd),
    fun p s h => congrArg (fun t => Host.Outcome.next (settle t)) (linkComesUp_idle h), off,
    fun p s hup hs h => ?_, fun p s w hup ⟨a, ha⟩ hs hw hroom => ?_, fun p s a hup ha hs => ?_,
    fun p s => ⟨⟨_, rfl, ?_, ?_⟩, ?_⟩⟩
  · rw [down p s hup, afterLeaving_kept fun a ha => hs a (mem_lostAt.1 ha)]
    rwa [lostAt_eq_nil]
  · rw [down p s hup, afterLeaving_joins (s := { s with ring := downed p s.ring }) (fun a ha => hs a (mem_lostAt.1 ha)) (List.ne_nil_of_mem (mem_lostAt.2 ha)) hw hroom]
  · rw [down p s hup, afterLeaving_reset (mem_lostAt.2 ha) hs]
  · refine (settle_only _).nv.trans ?_
    unfold linkComesUp
    split <;> rfl
  · refine (settle_only _).handler.trans ?_
    unfold linkComesUp
    split <;> rfl
  · cases h : s.ring.isUp p with
    | false => exact ⟨_, off p s h, ((settle_only s).up p).trans h, (settle_only s).lines⟩
    | true =>
      have kept := linksKept_afterLeaving (lostAt p s.ring) { s with ring := downed p s.ring }
      exact ⟨_, down p s h, ((settle_only _).up p).trans ((kept.up p).trans (isUp_downed p s.ring)),
        (settle_only _).lines.trans kept.lines⟩

/-- Settles O19, by what the output sent; what follows an answer sent is `afterLeaving`. -/
theorem transmissionsEnd : Obligations.TransmissionsEnd := by
  intro p s
  have ends {t : State} (h : transmissionEnds p s = t) : exec (.transmitCompletion p) s = .next (settle t) :=
    congrArg (fun t => Host.Outcome.next (settle t)) h
  refine ⟨fun h => ends (by rw [transmissionEnds, h]), fun f h => ends (transmissionEnds_sending h),
    fun f h => ends ?_, fun f pre g post h hb hpre => ends ?_, fun f h hs hready => ends ?_,
    fun f pre a post w h hs has hp hsend hothers hroom hw hws hup hheld => ends ?_, fun f r h hr => ?_⟩
  · rw [transmissionEnds_sending h]
    cases p <;> rfl
  · rw [transmissionEnds_sending h]
    have first : dropForward p (idleOutput p s.ring).buffers = pre ++ post := by
      rw [idleOutput, Ring.setPort_buffers, hb, dropForward_first hpre]
    rw [releaseSent, first]
    rfl
  · rw [transmissionEnds_answer h, afterLeaving_kept (fun a ha => hs a (List.mem_filter.1 ha).1)
      (.inr (.inl fun w hw => by rw [hready] at hw; exact nomatch hw))]
    rfl
  · have left : (s.ring.answers.filter fun a => !(a.origin.port == p && a.sending)) = pre ++ post := by
      have stays (as : List Answer) (h : ∀ b ∈ as, ¬(b.origin.port = p ∧ b.sending = true)) :
          (as.filter fun a => !(a.origin.port == p && a.sending)) = as :=
        List.filter_eq_self.2 fun b hb => by
          rw [Bool.not_eq_true', Bool.and_eq_false_iff, ← Bool.not_eq_true, ← Bool.not_eq_true, beq_iff_eq,
            ← Decidable.not_and_iff_not_or_not]
          exact h b hb
      rw [has, List.filter_append, stays pre fun b hb => hothers b (List.mem_append_left _ hb),
        List.filter_cons_of_neg (by simp [hp, hsend]), stays post fun b hb => hothers b (List.mem_append_right _ hb)]
    have sent : answersSent p s.ring
        = { (s.ring.setPort p { s.ring.port p with output := .idle }) with answers := pre ++ post } := by
      rw [answersSent, left]
    have gone : a ∈ s.ring.answers.filter (Answer.sentAt p) := mem_sentAt.2 ⟨by rw [has]; simp, hp, hsend⟩
    have still : (answersSent p s.ring).isUp w.origin.port = true := by
      rw [sent]
      exact (isUp_setPort (x := { s.ring.port p with output := .idle }) rfl w.origin.port).trans hup
    have held : takeHeld (answersSent p s.ring).buffers = none := by
      rw [answersSent]
      simpa using hheld
    rw [transmissionEnds_answer h, afterLeaving_joins (s := { s with ring := answersSent p s.ring })
      (fun b hb => hs b (List.mem_filter.1 hb).1) (List.ne_nil_of_mem gone) hw (by dsimp only; rw [sent]; exact hroom),
      joinAnswers_bound still, serve_none held, sent, hws]
    rfl
  · subst hr
    refine ⟨fun hs => ⟨fun hkept => ends ?_, fun w hw ⟨a, ha, hp, hsend⟩ hroom => ends ?_⟩, fun ⟨a, ha, hp, hsend, hs⟩ => ends ?_⟩
    · rw [transmissionEnds_answer h, afterLeaving_kept fun a ha => hs a (mem_sentAt.1 ha).1 (mem_sentAt.1 ha).2.1 (mem_sentAt.1 ha).2.2]
      · rfl
      · rw [sentAt_eq_nil]
        exact hkept.elim (fun h => .inr (.inl h)) (fun h => h.elim .inl fun h => .inr (.inr h))
    · rw [transmissionEnds_answer h, afterLeaving_joins (s := { s with ring := answersSent p s.ring })
        (fun a ha => hs a (mem_sentAt.1 ha).1 (mem_sentAt.1 ha).2.1 (mem_sentAt.1 ha).2.2)
        (List.ne_nil_of_mem (mem_sentAt.2 ⟨ha, hp, hsend⟩)) hw hroom]
      rfl
    · rw [transmissionEnds_answer h, afterLeaving_reset (mem_sentAt.2 ⟨ha, hp, hsend⟩) hs]
      rfl

/-- The soft reset takes place where its answer was in transmission. -/
theorem exec_softReset_sent {s : State} {a : Answer} {f : List Byte} (hpending : s.handler = .resetPending)
    (hfind : s.ring.answers.find? (fun a => a.softReset && a.sending) = some a)
    (hout : (s.ring.port a.origin.port).output = .sending f .answer) :
    exec .softResetTakesPlace s = .next (settle (softResetState { s with ring := answersSent a.origin.port s.ring })) := by
  have flags : a.softReset = true ∧ a.sending = true := by simpa using List.find?_some hfind
  have gone := mem_sentAt.2 ⟨List.mem_of_find?_eq_some hfind, rfl, flags.2⟩
  have e : softResetTakesPlace s = settle (transmissionEnds a.origin.port s) := by
    rw [softResetTakesPlace, if_pos hpending, hfind]
  refine congrArg Host.Outcome.next (e.trans ?_)
  rw [transmissionEnds_answer hout, afterLeaving_reset gone flags.1]

/-- Settles O10: a taken SOFT RESET is answered like any request, and takes effect as its answer leaves. -/
theorem softResetIsAnsweredThenTakesPlace : Obligations.SoftResetIsAnsweredThenTakesPlace := by
  refine ⟨fun q s ht => ?_, fun s hne => ?_, fun s hnone => ?_, fun s a f hp hfind hport hout => ?_,
    fun s a f hp hfind hport hout => ?_⟩
  · obtain ⟨hup, hroom, hown, hman, hready, hheld⟩ := id ht
    have taken (hargs : q.args = []) : exec (.softReset q) s = .next (settle
        (handAnswer ⟨origin q 0x3F, .done, [], true, false⟩ { s with core := closed s.core })) := by
      refine congrArg Host.Outcome.next ((requestRow_taken 0x3F q s hup hroom hown hman hready hheld).trans ?_)
      rw [hargs]
      rfl
    refine ⟨fun hargs => answers_of_carry rfl ht (carry_wrongLength rfl (mt List.length_eq_zero_iff.1 hargs)),
      fun hargs hplace => ?_, fun hargs hfull => ?_⟩
    · rw [taken hargs, handAnswer_bound (s := { s with core := closed s.core }) hplace hup]
      rfl
    · rw [taken hargs, handAnswer_full (s := { s with core := closed s.core }) (Nat.not_lt.2 hfull)]
  · exact congrArg Host.Outcome.next (if_neg hne)
  · refine congrArg Host.Outcome.next ?_
    rw [softResetTakesPlace, hnone]
    exact ite_self s
  · rw [exec_softReset_sent hp hfind (by rw [hport]; exact hout), hport]
    rfl
  · rw [exec_softReset_sent hp hfind (by rw [hport]; exact hout), hport]
    rfl

end Sys2Proof.Proofs
end

section
/-! Arriving frames: those that are not forwarded (O14), those that are (O15), and the samples and positions snooped (O16-O18). -/

namespace Sys2Proof.Machine

open Sys2Proof.Claims

/-! ### The decisions on an arriving frame (01 R6, R8, R9, R10) -/

theorem ownSource_iff {s : State} {b : Byte} :
    ownSource s b = true ↔ b.toNat = s.nv.settings.partAddress ∨ s.ring.retired = some b := by simp [ownSource]

theorem ownSource_eq_false {s : State} {b : Byte} :
    ownSource s b = false ↔ b.toNat ≠ s.nv.settings.partAddress ∧ s.ring.retired ≠ some b := by
  rw [← Bool.not_eq_true, ownSource_iff, not_or]

theorem isManager_iff {t : Settings} {b : Byte} :
    isManager t b = true ↔ b.toNat = t.primary ∨ (t.standby ≠ 0 ∧ b.toNat = t.standby) := by simp [isManager]

theorem isManager_eq_false {t : Settings} {b : Byte} :
    isManager t b = false ↔ b.toNat ≠ t.primary ∧ (t.standby = 0 ∨ b.toNat ≠ t.standby) := by
  rw [← Bool.not_eq_true, isManager_iff, not_or, Decidable.not_and_iff_not_or_not, Decidable.not_not]

section
variable {p : Port} {f : List Byte} {s : State}

theorem frameArrives_full (hup : s.ring.isUp p = true) (hfull : Config.buffers ≤ s.ring.occupied p) :
    frameArrives p f s = countOverflow s := by
  rw [frameArrives, if_neg (by simp [hup]), if_pos hfull]

theorem frameArrives_bad (hup : s.ring.isUp p = true) (hroom : s.ring.occupied p < Config.buffers) (hf : frameOk f = false) :
    frameArrives p f s = countBad s := by
  rw [frameArrives, if_neg (by simp [hup]), if_neg (Nat.not_le.2 hroom), if_neg (by simp [hf])]

theorem frameArrives_checked (hup : s.ring.isUp p = true) (hroom : s.ring.occupied p < Config.buffers) (hf : frameOk f = true) :
    frameArrives p f s = takeFrame p f s := by
  rw [frameArrives, if_neg (by simp [hup]), if_neg (Nat.not_le.2 hroom), if_pos hf]

theorem takeFrame_own (h : ownSource s (frameSource f) = true) : takeFrame p f s = s := if_pos h

theorem takeFrame_addressed (hown : ownSource s (frameSource f) = false)
    (hdest : (frameDest f).toNat = s.nv.settings.partAddress) : takeFrame p f s =
      if frameKind f = 0x31 then consumeRequest p (frameSource f) (frameBody f) s else s := by
  rw [takeFrame, if_neg (by simp [hown]), if_pos hdest]

theorem takeFrame_other (hown : ownSource s (frameSource f) = false)
    (hdest : (frameDest f).toNat ≠ s.nv.settings.partAddress) : takeFrame p f s = snoop f (forward p f s) := by
  rw [takeFrame, if_neg (by simp [hown]), if_neg hdest]

/-- A checked frame for another station is forwarded, and then snooped. -/
theorem frameArrives_forwarded (hup : s.ring.isUp p = true) (hroom : s.ring.occupied p < 2) (hf : frameOk f = true)
    (hsource : u8 f 1 ≠ s.nv.settings.partAddress) (hretired : s.ring.retired ≠ some (byteAt f 1))
    (hdest : u8 f 0 ≠ s.nv.settings.partAddress) : frameArrives p f s = snoop f (forward p f s) := by
  rw [frameArrives_checked hup hroom hf]
  exact takeFrame_other (ownSource_eq_false.2 ⟨hsource, hretired⟩) hdest

end

/-! ### Forwarding (01 R10) -/

section
variable (p : Port) (f : List Byte) (s : State)

theorem forward_eq : forward p f s = { s with ring := { s.ring with
    buffers := if s.ring.isUp p.other then s.ring.buffers ++ [⟨p, .forward f false⟩] else s.ring.buffers } } := by
  unfold forward
  split <;> rfl

@[simp] theorem forward_nv : (forward p f s).nv = s.nv := by rw [forward_eq]
@[simp] theorem forward_core : (forward p f s).core = s.core := by rw [forward_eq]
@[simp] theorem forward_handler : (forward p f s).handler = s.handler := by rw [forward_eq]
@[simp] theorem forward_badFrame : (forward p f s).ring.badFrame = s.ring.badFrame := by rw [forward_eq]

end

/-! ### Snooping (01 R11-R13) -/

section
variable {f : List Byte} {s : State}

theorem snoop_other (hsample : frameKind f ≠ 0x11) (hposition : frameKind f ≠ 0x21) : snoop f s = s := by
  rw [snoop, if_neg hsample, if_neg hposition]

theorem snoop_sample {time : Nat} {xs : List Reading} (hk : frameKind f = 0x11) (h : sampleOf (frameBody f) = some (time, xs)) :
    snoop f s = { s with core := takeSample s.nv (frameSource f).toNat (frameSequence f) time xs s.core } := by
  rw [snoop, if_pos hk, snoopSample, h]

theorem snoop_sample_malformed (hk : frameKind f = 0x11) (h : sampleOf (frameBody f) = none) : snoop f s = countBad s := by
  rw [snoop, if_pos hk, snoopSample, h]

theorem snoop_position {r : Report} (hk : frameKind f = 0x21) (h : positionOf (frameBody f) = some r) :
    snoop f s = { s with core := luUpdate s.nv (positionReport s.nv (frameSource f).toNat r s.core) } := by
  rw [snoop, if_neg (by simp [hk]), if_pos hk, snoopPosition, h]

theorem snoop_position_malformed (hk : frameKind f = 0x21) (h : positionOf (frameBody f) = none) : snoop f s = countBad s := by
  rw [snoop, if_neg (by simp [hk]), if_pos hk, snoopPosition, h]

end

/-- Snooping changes the blocks and the count of bad frames, and nothing else. -/
theorem snoop_only (f : List Byte) (s : State) : (snoop f s).nv = s.nv ∧ (snoop f s).handler = s.handler
    ∧ (snoop f s).ring = { s.ring with badFrame := (snoop f s).ring.badFrame } := by
  unfold snoop snoopSample snoopPosition
  repeat' split
  all_goals exact ⟨rfl, rfl, rfl⟩

end Sys2Proof.Machine

namespace Sys2Proof.Proofs

open Sys2Proof Sys2Proof.Machine Sys2Proof.Claims

/-- The event of a frame's arrival. -/
theorem exec_frameArrival {p : Port} {f : List Byte} {s t : State} (h : frameArrives p f s = t) :
    exec (.frameArrival p f) s = .next (settle t) := congrArg (fun t => Host.Outcome.next (settle t)) h

/-- Settles O14, by the decisions on an arriving frame in their order. -/
theorem arrivalsThatAreNotForwarded : Obligations.ArrivalsThatAreNotForwarded := by
  intro p f s
  refine ⟨fun hdown => exec_frameArrival (frameArrives_down hdown f),
    fun hup hfull => exec_frameArrival ((frameArrives_full hup hfull).trans (countOverflow_eq s)),
    fun hup hroom => ⟨fun hbad => exec_frameArrival ((frameArrives_bad hup hroom hbad).trans (countBad_eq s)), fun hf => ?_⟩⟩
  have checked := frameArrives_checked hup hroom hf
  refine ⟨fun hown => exec_frameArrival (checked.trans (takeFrame_own (ownSource_iff.2 hown))), fun hsource hretired hdest => ?_⟩
  have hown : ownSource s (frameSource f) = false := ownSource_eq_false.2 ⟨hsource, hretired⟩
  have addressed := checked.trans (takeFrame_addressed hown hdest)
  have request (hk : u8 f 2 = 0x31) : frameArrives p f s = consumeRequest p (frameSource f) (frameBody f) s :=
    addressed.trans (if_pos hk)
  refine ⟨fun hk => exec_frameArrival (addressed.trans (if_neg hk)), fun hk => ?_, fun hk hprimary hstandby => ?_,
    fun hk hmanager hbusy => ?_⟩
  · exact exec_frameArrival ((request hk).trans (requestArrives_consumed hup hroom hown).symm)
  · exact exec_frameArrival ((request hk).trans ((consumeRequest_refused (isManager_eq_false.2 ⟨hprimary, hstandby⟩)).trans
      (countRefused_eq s)))
  · exact exec_frameArrival ((request hk).trans ((consumeRequest_manager (isManager_iff.2 hmanager)).trans (serve_busy hbusy)))

/-- Settles O15: a frame for another station is forwarded, and snooping leaves the ring but for the count of bad frames. -/
theorem otherFramesAreForwarded : Obligations.OtherFramesAreForwarded := by
  intro p f s hup hroom hf hsource hretired hdest
  have arrives := frameArrives_forwarded hup hroom hf hsource hretired hdest
  refine ⟨fun hsample hposition => ?_, fun _ => ⟨_, exec_frameArrival arrives, ?_, ?_, ?_⟩⟩
  · have forwarded := arrives.trans ((snoop_other hsample hposition).trans (forward_eq p f s))
    refine ⟨fun ho => exec_frameArrival ?_, fun ho => exec_frameArrival ?_⟩
    · rw [forwarded, if_pos ho]
    · rw [forwarded, if_neg (by simp [ho])]
  · rw [(snoop_only f _).2.2, forward_eq]
  · rw [(snoop_only f _).1, forward_nv]
  · rw [(snoop_only f _).2.1, forward_handler]

end Sys2Proof.Proofs
end

section
/-! Samples (O16): how their bodies are read, and what a reading does. -/

namespace Sys2Proof.Machine

open Sys2Proof.Claims

/-! ### The body of a SAMPLE (01 R11) -/

theorem readingsOf_ne_none (body : List Byte) : ∀ (n start : Nat), readingsOf body start n ≠ none ↔
    ∀ k, k < n → u8 body (start + 4 * k) ≤ 7 ∧ u8 body (start + 1 + 4 * k) ≤ 1
  | 0, _ => ⟨fun _ _ hk => absurd hk (Nat.not_lt_zero _), fun _ => by simp [readingsOf]⟩
  | n + 1, start => by
    have ih := readingsOf_ne_none body n (start + 4)
    have shift (k : Nat) : start + 4 + 4 * k = start + 4 * (k + 1) ∧ start + 4 + 1 + 4 * k = start + 1 + 4 * (k + 1) := by omega
    simp only [shift] at ih
    have split : (∀ k, k < n + 1 → u8 body (start + 4 * k) ≤ 7 ∧ u8 body (start + 1 + 4 * k) ≤ 1) ↔
        (u8 body start ≤ 7 ∧ u8 body (start + 1) ≤ 1)
          ∧ ∀ k, k < n → u8 body (start + 4 * (k + 1)) ≤ 7 ∧ u8 body (start + 1 + 4 * (k + 1)) ≤ 1 := by
      constructor
      · exact fun h => ⟨h 0 (Nat.succ_pos n), fun k hk => h (k + 1) (Nat.succ_lt_succ hk)⟩
      · rintro ⟨h₀, h⟩ k hk
        cases k with
        | zero => exact h₀
        | succ k => exact h k (Nat.lt_of_succ_lt_succ hk)
    rw [split, ← ih, readingsOf]
    by_cases h : u8 body start ≤ 7 ∧ u8 body (start + 1) ≤ 1
    · simp [h]
    · simp [h]

/-- The readings read: as many as asked for, each with the channel, quality and value of its four bytes. -/
theorem readingsOf_some {body : List Byte} : ∀ {n start : Nat} {xs : List Reading}, readingsOf body start n = some xs →
    xs.length = n ∧ ∀ k x, xs[k]? = some x → x.channel = u8 body (start + 4 * k)
      ∧ (x.suspect = true ↔ u8 body (start + 1 + 4 * k) = 1) ∧ x.value = u16 body (start + 2 + 4 * k)
  | 0, _, xs, h => by
    obtain rfl : [] = xs := Option.some.inj h
    exact ⟨rfl, fun k x hx => by simp at hx⟩
  | n + 1, start, xs, h => by
    rw [readingsOf] at h
    split at h
    · obtain ⟨ys, hys, rfl⟩ := Option.map_eq_some_iff.1 h
      obtain ⟨hlength, hread⟩ := readingsOf_some hys
      refine ⟨by rw [List.length_cons, hlength], fun k x hx => ?_⟩
      cases k with
      | zero =>
        obtain rfl := Option.some.inj hx
        exact ⟨rfl, beq_iff_eq, rfl⟩
      | succ k =>
        have shift : start + 4 + 4 * k = start + 4 * (k + 1) ∧ start + 4 + 1 + 4 * k = start + 1 + 4 * (k + 1)
            ∧ start + 4 + 2 + 4 * k = start + 2 + 4 * (k + 1) := by omega
        have := hread k x hx
        rwa [shift.1, shift.2.1, shift.2.2] at this
    · exact nomatch h

theorem sampleOf_ne_none (body : List Byte) : sampleOf body ≠ none ↔
    1 ≤ u8 body 4 ∧ u8 body 4 ≤ 8 ∧ body.length = 5 + 4 * u8 body 4
      ∧ ∀ k, k < u8 body 4 → u8 body (5 + 4 * k) ≤ 7 ∧ u8 body (6 + 4 * k) ≤ 1 := by
  unfold sampleOf
  split
  · next h =>
    rw [ne_eq, Option.map_eq_none_iff, ← ne_eq, readingsOf_ne_none]
    exact ⟨fun hread => ⟨h.1, h.2.1, h.2.2, hread⟩, fun ⟨_, _, _, hread⟩ => hread⟩
  · next h => exact ⟨fun hne => absurd rfl hne, fun ⟨h₁, h₂, h₃, _⟩ => absurd ⟨h₁, h₂, h₃⟩ h⟩

theorem sampleOf_some {body : List Byte} {time : Nat} {xs : List Reading} (h : sampleOf body = some (time, xs)) :
    time = u32 body 0 ∧ readingsOf body 5 (u8 body 4) = some xs := by
  unfold sampleOf at h
  split at h
  · obtain ⟨ys, hys, heq⟩ := Option.map_eq_some_iff.1 h
    obtain ⟨rfl, rfl⟩ := Prod.mk.inj heq
    exact ⟨rfl, hys⟩
  · exact nomatch h

/-! ### The lookups of a station index record (02 R25) -/

section
variable {m : Sparse Record} {P : Record → Bool}

theorem lookup_some (hm : m.wf = true) {i : Nat} (h : (m.find? fun p => P p.2).map Prod.fst = some i) :
    ∃ r, m.at? i = some r ∧ P r = true := by
  obtain ⟨⟨j, r⟩, hfind, rfl⟩ := Option.map_eq_some_iff.1 h
  exact ⟨r, (Sparse.mem_iff_at?_of_wf hm j r).1 (List.mem_of_find?_eq_some hfind), List.find?_some (p := fun p : Nat × Record => P p.2) hfind⟩

theorem lookup_none (hm : m.wf = true) :
    (m.find? fun p => P p.2).map Prod.fst = none ↔ ∀ i r, m.at? i = some r → P r = false := by
  simp only [Option.map_eq_none_iff, List.find?_eq_none, Prod.forall, Sparse.mem_iff_at?_of_wf hm, Bool.not_eq_true]

end

theorem sensorAt_some {t : Tables} {st ch i : Nat} (hwf : t.sensors.wf = true) (h : t.sensorAt st ch = some i) :
    ∃ r, t.sensors.at? i = some r ∧ r.sensor.station = st ∧ r.sensor.channel = ch := by
  obtain ⟨r, hr, hp⟩ := lookup_some (P := fun r => r.sensor.station == st && r.sensor.channel == ch) hwf h
  exact ⟨r, hr, by simpa using hp⟩

theorem sensorAt_none {t : Tables} {st ch : Nat} (hwf : t.sensors.wf = true) :
    t.sensorAt st ch = none ↔ ∀ i r, t.sensors.at? i = some r → r.sensor.station = st → r.sensor.channel ≠ ch :=
  (lookup_none (P := fun r => r.sensor.station == st && r.sensor.channel == ch) hwf).trans (by simp)

/-! ### A SAMPLE taken, or a duplicate (01 R11, R12) -/

section
variable {nv : Nv} {st time : Nat} {b : Byte} {xs : List Reading} {c : Core}

theorem takeSample_duplicate (h : c.wu.lastSeq.at? st = some b) : takeSample nv st b time xs c = c := if_pos h

theorem takeSample_new (h : c.wu.lastSeq.at? st ≠ some b) : takeSample nv st b time xs c =
    xs.foldl (takeReading nv st time) { c with wu := { c.wu with lastSeq := c.wu.lastSeq.put st b } } := if_neg h

/-- Taken or a duplicate, the source's entry is the SAMPLE's sequence, and no other entry changes. -/
theorem takeSample_lastSeq (hx : ∀ x ∈ xs, x.value ≤ 65535) : (takeSample nv st b time xs c).wu.lastSeq.at? st = some b
    ∧ ∀ o, o ≠ st → (takeSample nv st b time xs c).wu.lastSeq.at? o = c.wu.lastSeq.at? o := by
  by_cases h : c.wu.lastSeq.at? st = some b
  · rw [takeSample_duplicate h]
    exact ⟨h, fun _ _ => rfl⟩
  · obtain ⟨_, _, _, _, _, _, _, _, hseq, _⟩ := (Moves.takeReadings_of nv st time xs hx
      (Moves.refl (nv := nv) { c with wu := { c.wu with lastSeq := c.wu.lastSeq.put st b } })).frame
    rw [takeSample_new h, hseq]
    exact ⟨Sparse.at?_put_same .., fun o ho => Sparse.at?_put_other _ _ ho⟩

end

/-! ### A reading (04 R60, R61, R75) -/

section
variable {nv : Nv} {st time : Nat} {x : Reading} {c : Core}

/-- A reading whose station index record cannot be used, or whose pair is not found, is passed over with that read made. -/
theorem takeReading_notFound (h : indexPoisoned .stationIndex st (touchIndex nv .stationIndex st (beginPart c)) = true
      ∨ (touchIndex nv .stationIndex st (beginPart c)).ts.valid = false ∨ nv.active.tables.sensorAt st x.channel = none) :
    takeReading nv st time c x = touchIndex nv .stationIndex st (beginPart c) := by
  unfold takeReading
  dsimp only
  split
  · rfl
  · next hread =>
    rw [Bool.not_eq_true, Bool.or_eq_false_iff, Bool.not_eq_false'] at hread
    rcases h with h | h | h
    · exact absurd (hread.1.symm.trans h) Bool.false_ne_true
    · exact absurd (h.symm.trans hread.2) Bool.false_ne_true
    · rw [h]

theorem takeReading_found {i : Nat} (hi : indexPoisoned .stationIndex st (touchIndex nv .stationIndex st (beginPart c)) = false)
    (hv : (touchIndex nv .stationIndex st (beginPart c)).ts.valid = true) (hs : nv.active.tables.sensorAt st x.channel = some i) :
    takeReading nv st time c x = luUpdate nv (readingFor nv time x i (touchIndex nv .stationIndex st (beginPart c))) := by
  unfold takeReading
  dsimp only
  rw [if_neg (by simp [hi, hv]), hs]

theorem readingFor_passed {i : Nat} {e : Core} (he : e = touchEntry nv .sensor i c)
    (h : (∀ r, seen nv .sensor i e ≠ .value r) ∨ indexPoisoned .sensorIndex i e = true ∨ x.suspect = true
      ∨ (channelOf i e).state = .inhibited) : readingFor nv time x i c = e := by
  subst he
  unfold readingFor
  dsimp only
  split
  · next r hr =>
    refine if_pos ?_
    rcases h with h | h
    · exact absurd hr (h r)
    · exact h
  · rfl
  · rfl

theorem readingFor_evaluated {i : Nat} {e : Core} {r : Record} (he : e = touchEntry nv .sensor i c)
    (hr : seen nv .sensor i e = .value r) (hi : indexPoisoned .sensorIndex i e = false) (hs : x.suspect = false)
    (hn : (channelOf i e).state ≠ .inhibited) : readingFor nv time x i c = evaluateIn nv i r.sensor x.value time e := by
  subst he
  unfold readingFor
  dsimp only
  rw [hr]
  exact if_neg (by simp [hi, hs, hn])

end

section
variable {nv : Nv} {i : Nat} {r : SensorRecord} {v time : Nat} {e m : Core}
  (hm : m = scoreChange nv i (channelOf i e) (evaluated r v time (channelOf i e))
    (setChannel i (evaluated r v time (channelOf i e)) e))
include hm

/-- An ATTRIBUTED channel that becomes QUIET leaves its incident's list. -/
theorem evaluateIn_leaves {n : Nat} (hn : (channelOf i e).incident = some n) (ho : (channelOf i e).state = .attributed)
    (hq : (evaluated r v time (channelOf i e)).state = .quiet) :
    evaluateIn nv i r v time e = leaveList n i .released m := by
  subst hm
  unfold evaluateIn
  dsimp only
  rw [hn]
  exact if_pos ⟨ho, hq⟩

theorem evaluateIn_stays (h : (channelOf i e).incident = none ∨ (channelOf i e).state ≠ .attributed
    ∨ (evaluated r v time (channelOf i e)).state ≠ .quiet) : evaluateIn nv i r v time e = m := by
  subst hm
  unfold evaluateIn
  dsimp only
  split
  · next n hn =>
    refine if_neg ?_
    rintro ⟨ho, hq⟩
    rcases h with h | h | h
    · exact nomatch hn.symm.trans h
    · exact h ho
    · exact h hq
  · rfl

end

end Sys2Proof.Machine

namespace Sys2Proof.Proofs

open Sys2Proof Sys2Proof.Machine Sys2Proof.Claims

/-- Settles O16: the arrival by `takeSample`, a reading by the cases of `takeReading`, the body by those of `readingsOf`. -/
theorem samplesAreTakenOnce : Obligations.SamplesAreTakenOnce := by
  refine ⟨fun p f s hup hroom hf hsource hretired hdest hk => ?arrival, fun nv st time x c d hd => ?reading,
    fun body => ⟨sampleOf_ne_none body, fun time xs h => ?body⟩, fun t st ch hwf => ⟨fun i => sensorAt_some hwf, sensorAt_none hwf⟩⟩
  case body =>
    obtain ⟨htime, hread⟩ := sampleOf_some h
    have shift (k : Nat) : 5 + 1 + 4 * k = 6 + 4 * k ∧ 5 + 2 + 4 * k = 7 + 4 * k := by omega
    obtain ⟨hlength, hxs⟩ := readingsOf_some hread
    simp only [shift] at hxs
    exact ⟨htime, hlength, hxs⟩
  case arrival =>
    have arrives := frameArrives_forwarded hup hroom hf hsource hretired hdest
    have only := settle_only (snoop f (forward p f s))
    obtain ⟨hnv, hhandler, hring⟩ := snoop_only f (forward p f s)
    refine ⟨_, exec_frameArrival arrives, fun hnone => ?_, fun x hx => ?_, ?_, ?_, ?_, ?_, fun time xs hx hnew => ?_⟩
    · rw [only.wu, only.badFrame, snoop_sample_malformed hk hnone, countBad_eq]
      simp
    · obtain ⟨time, xs⟩ := x
      have taken := snoop_sample (s := forward p f s) hk hx
      have core : (snoop f (forward p f s)).core
          = takeSample s.nv (u8 f 1) (byteAt f 3) time xs s.core := by
        rw [taken, forward_nv, forward_core]
        rfl
      obtain ⟨hseq, hothers⟩ := takeSample_lastSeq (nv := s.nv) (st := u8 f 1) (time := time) (b := byteAt f 3) (c := s.core)
        (Runs.value_sampleOf hx)
      rw [only.badFrame, only.wu, only.lu, only.ic, only.ts, core]
      refine ⟨by rw [taken, forward_badFrame], hseq, hothers, fun hdup => ?_⟩
      rw [takeSample_duplicate hdup]
      exact ⟨rfl, rfl, rfl, rfl⟩
    · rw [only.nv, hnv, forward_nv]
    · rw [only.handler, hhandler, forward_handler]
    · rw [only.overflow, hring, forward_eq]
    · rw [only.refusedSource, hring, forward_eq]
    · refine ⟨_, rfl, ?_⟩
      rw [snoop_sample hk hx, forward_nv, forward_core]
      exact takeSample_new hnew
  case reading =>
    subst hd
    refine ⟨takeReading_notFound, fun i e hi hv hs he => ⟨fun hpass => ?_, fun r old new k m hr hx hq hn hold hnew hk hm => ?_⟩⟩
    · rw [takeReading_found hi hv hs, readingFor_passed he hpass]
    · subst hold hnew hk
      have found := (takeReading_found (time := time) hi hv hs).trans
        (congrArg (luUpdate nv) (readingFor_evaluated (time := time) he hr hx hq hn))
      refine ⟨fun n hinc ho hquiet => ?_, fun hstays => ?_⟩
      · rw [found, evaluateIn_leaves hm hinc ho hquiet]
      · rw [found, evaluateIn_stays hm hstays]

end Sys2Proof.Proofs
end

section
/-! Positions (O17, O18): how their bodies are read, and what a report does. -/

namespace Sys2Proof.Machine

open Sys2Proof.Claims

/-! ### The body of a POSITION (01 R13; 08 R150) -/

theorem positionOfCode_ne_none : ∀ k : Nat, positionOfCode k ≠ none ↔ k ≤ 3
  | 0 | 1 | 2 | 3 => by simp [positionOfCode]
  | k + 4 => by simp [positionOfCode]

theorem motionOfCode_ne_none : ∀ k : Nat, motionOfCode k ≠ none ↔ k ≤ 2
  | 0 | 1 | 2 => by simp [motionOfCode]
  | k + 3 => by simp [motionOfCode]

theorem positionOfCode_some {k : Nat} {x : Position} (h : positionOfCode k = some x) :
    (x, k) ∈ [(Position.opened, 0), (.closed, 1), (.mid, 2), (.unknown, 3)] := by
  unfold positionOfCode at h
  split at h
  all_goals cases h
  all_goals simp

theorem motionOfCode_some {k : Nat} {x : MotionCode} (h : motionOfCode k = some x) :
    (x, k) ∈ [(MotionCode.idle, 0), (.moving, 1), (.jammed, 2)] := by
  unfold motionOfCode at h
  split at h
  all_goals cases h
  all_goals simp

theorem positionOf_some {body : List Byte} {r : Report} (h : positionOf body = some r) :
    (body.length = 4 ∧ u8 body 0 ≤ 15) ∧ r.channel = u8 body 0 ∧ r.token = u8 body 3
      ∧ positionOfCode (u8 body 1) = some r.position ∧ motionOfCode (u8 body 2) = some r.motion := by
  unfold positionOf at h
  split at h
  · next hbody =>
    split at h
    · next p m hp hm =>
      obtain rfl := Option.some.inj h
      exact ⟨hbody, rfl, rfl, hp, hm⟩
    · exact nomatch h
  · exact nomatch h

theorem positionOf_ne_none (body : List Byte) :
    positionOf body ≠ none ↔ body.length = 4 ∧ u8 body 0 ≤ 15 ∧ u8 body 1 ≤ 3 ∧ u8 body 2 ≤ 2 := by
  constructor
  · intro h
    obtain ⟨r, hr⟩ := Option.ne_none_iff_exists'.1 h
    obtain ⟨⟨hlength, hchannel⟩, _, _, hp, hm⟩ := positionOf_some hr
    exact ⟨hlength, hchannel, (positionOfCode_ne_none _).1 (by simp [hp]), (motionOfCode_ne_none _).1 (by simp [hm])⟩
  · rintro ⟨hlength, hchannel, hp, hm⟩
    obtain ⟨p, hp⟩ := Option.ne_none_iff_exists'.1 ((positionOfCode_ne_none _).2 hp)
    obtain ⟨m, hm⟩ := Option.ne_none_iff_exists'.1 ((motionOfCode_ne_none _).2 hm)
    rw [positionOf, if_pos ⟨hlength, hchannel⟩, hp, hm]
    exact Option.some_ne_none _

theorem actuator_some {t : Tables} {st ch v : Nat} (hwf : t.valves.wf = true) (h : t.actuator st ch = some v) :
    ∃ r, t.valves.at? v = some r ∧ r.valve.station = st ∧ r.valve.channel = ch := by
  obtain ⟨r, hr, hp⟩ := lookup_some (P := fun r => r.valve.station == st && r.valve.channel == ch) hwf h
  exact ⟨r, hr, by simpa using hp⟩

theorem actuator_none {t : Tables} {st ch : Nat} (hwf : t.valves.wf = true) :
    t.actuator st ch = none ↔ ∀ v r, t.valves.at? v = some r → r.valve.station = st → r.valve.channel ≠ ch :=
  (lookup_none (P := fun r => r.valve.station == st && r.valve.channel == ch) hwf).trans (by simp)

/-! ### What is passed over, and what is found (08 R152) -/

section
variable {nv : Nv} {st : Nat} {r : Report} {c : Core}

theorem indexPoisoned_touchIndex (a : Area) (hvalid : c.ts.valid = true) :
    indexPoisoned a st (touchIndex nv a st c) = true ↔
      nv.active.wrongAt ⟨a, st⟩ = some .two ∨ poisonedAt c ⟨a, st⟩ = true := by
  rw [indexPoisoned_iff a ((touchIndex_only nv a st c).valid.trans hvalid), touchIndex_valid a hvalid, markAt_touchPlace,
    poisonedAt_iff]

/-- Passed over: nothing is done but the read of the station index record. -/
theorem positionReport_passed (h : c.ts.valid = false ∨ poisonedAt c ⟨.stationIndex, st⟩ = true
      ∨ nv.active.wrongAt ⟨.stationIndex, st⟩ = some .two ∨ nv.active.tables.actuator st r.channel = none) :
    positionReport nv st r c = touchIndex nv .stationIndex st c := by
  unfold positionReport
  dsimp only
  split
  · rfl
  · next hread =>
    rw [Bool.not_eq_true, Bool.or_eq_false_iff, Bool.not_eq_false'] at hread
    have hvalid : c.ts.valid = true := (touchIndex_only nv .stationIndex st c).valid.symm.trans hread.2
    have sound : ¬(nv.active.wrongAt ⟨.stationIndex, st⟩ = some .two ∨ poisonedAt c ⟨.stationIndex, st⟩ = true) :=
      fun h => Bool.false_ne_true (hread.1.symm.trans ((indexPoisoned_touchIndex _ hvalid).2 h))
    rcases h with h | h | h | h
    · exact absurd (h.symm.trans hvalid) Bool.false_ne_true
    · exact absurd (.inr h) sound
    · exact absurd (.inl h) sound
    · rw [h]

theorem positionReport_found {v : Nat} (hvalid : c.ts.valid = true) (hp : poisonedAt c ⟨.stationIndex, st⟩ = false)
    (hw : nv.active.wrongAt ⟨.stationIndex, st⟩ ≠ some .two) (hv : nv.active.tables.actuator st r.channel = some v) :
    positionReport nv st r c = reportFor nv v r (touchIndex nv .stationIndex st c) := by
  have sound : indexPoisoned .stationIndex st (touchIndex nv .stationIndex st c) = false := by
    rw [← Bool.not_eq_true, indexPoisoned_touchIndex _ hvalid, hp]
    simpa using hw
  unfold positionReport
  dsimp only
  rw [if_neg (by simp [sound, (touchIndex_only nv .stationIndex st c).valid, hvalid]), hv]

theorem markAt_touchIndex_corrected (a : Area) (hvalid : c.ts.valid = true) (hm : markAt c ⟨a, st⟩ = none)
    (hw : nv.active.wrongAt ⟨a, st⟩ = some .one) : markAt (touchIndex nv a st c) ⟨a, st⟩ = some .corrected := by
  rw [touchIndex_valid a hvalid, touchPlace_one hw hm, markAt, tableError_ts]
  exact Sparse.at?_put_same ..

theorem markAt_touchIndex_poisoned (a : Area) (hvalid : c.ts.valid = true) (hw : nv.active.wrongAt ⟨a, st⟩ = some .two) :
    markAt (touchIndex nv a st c) ⟨a, st⟩ = some .poisoned := by
  rw [touchIndex_valid a hvalid, markAt_touchPlace]
  exact .inl hw

end

/-! ### The blocks that a report reads are those of the Drive Sequencer -/

theorem valveOf_of_ds {v : Nat} {c d : Core} (h : d.ds = c.ds) : valveOf v d = valveOf v c := by rw [valveOf, valveOf, h]

theorem motionOf_of_ds {v : Nat} {c d : Core} (h : d.ds = c.ds) : motionOf v d = motionOf v c := by rw [motionOf, motionOf, h]

@[simp] theorem motionOf_setValve (v w : Nat) (x : ValveStatus) (c : Core) : motionOf v (setValve w x c) = motionOf v c := rfl

/-! ### A report for a valve (08 R152-R155) -/

section
variable {nv : Nv} {v : Nat} {r : Report} {c : Core}

theorem reportFor_inFlight {k : Nat} {m : Motion} (h : motionOf v c = some (k, m)) : reportFor nv v r c =
    reportInFlight nv k m r (setValve v { valveOf v c with position := r.position, echo := r.token } c) := by
  rw [reportFor, motionOf_setValve, h]

theorem reportFor_idle (h : motionOf v c = none) : reportFor nv v r c =
    testLate v (valveOf v c).position r (testDisturbed v (valveOf v c).position r
      (setValve v { valveOf v c with position := r.position, echo := r.token } c)) := by
  rw [reportFor, motionOf_setValve, h]

/-- The tests of a report change nothing but the notice queue. -/
theorem testDisturbed_only (noted : Position) : (testDisturbed v noted r c).ds = c.ds ∧ (testDisturbed v noted r c).ic = c.ic := by
  unfold testDisturbed
  split
  · exact ⟨notify_ds .., notify_ic ..⟩
  · exact ⟨rfl, rfl⟩

theorem testLate_only (noted : Position) : (testLate v noted r c).ds = c.ds ∧ (testLate v noted r c).ic = c.ic := by
  unfold testLate
  split
  · exact ⟨rfl, rfl⟩
  · split
    · exact ⟨notify_ds .., notify_ic ..⟩
    · exact ⟨rfl, rfl⟩

section
variable {k : Nat} {m : Motion}

theorem reportInFlight_otherToken (h : r.token ≠ m.token) : reportInFlight nv k m r c = c := if_pos h

theorem reportInFlight_moving (ht : r.token = m.token) (hm : r.motion = .moving) :
    reportInFlight nv k m r c = if m.phase = .issued then acknowledge k m c else c := by
  rw [reportInFlight, if_neg (by simp [ht]), hm]

theorem reportInFlight_idle (ht : r.token = m.token) (hm : r.motion = .idle) : reportInFlight nv k m r c =
    if r.position = m.action.target then completeMotion nv k m c else faultMotion nv k m .stoppedShort c := by
  rw [reportInFlight, if_neg (by simp [ht]), hm]

theorem reportInFlight_jammed (ht : r.token = m.token) (hm : r.motion = .jammed) :
    reportInFlight nv k m r c = faultMotion nv k m .jammed c := by
  rw [reportInFlight, if_neg (by simp [ht]), hm]

end

end

end Sys2Proof.Machine

namespace Sys2Proof.Proofs

open Sys2Proof Sys2Proof.Machine Sys2Proof.Claims

/-- Settles O17: the arrival by the cases of `positionReport`, the body by those of `positionOf`. -/
theorem positionsUpdateTheirValve : Obligations.PositionsUpdateTheirValve := by
  refine ⟨fun p f s hup hroom hf hsource hretired hdest hk => ?arrival,
    fun body => ⟨positionOf_ne_none body, fun r h => ?body⟩, fun t st ch hwf => ⟨fun v => actuator_some hwf, actuator_none hwf⟩⟩
  case body =>
    obtain ⟨_, hchannel, htoken, hp, hm⟩ := positionOf_some h
    exact ⟨hchannel, htoken, positionOfCode_some hp, motionOfCode_some hm⟩
  case arrival =>
    have arrives := frameArrives_forwarded hup hroom hf hsource hretired hdest
    have only := settle_only (snoop f (forward p f s))
    obtain ⟨hnv, hhandler, _⟩ := snoop_only f (forward p f s)
    have core (r : Report) (hr : positionOf (frameBody f) = some r) :
        (snoop f (forward p f s)).core = luUpdate s.nv (positionReport s.nv (u8 f 1) r s.core) := by
      rw [snoop_position (s := forward p f s) hk hr, forward_nv, forward_core]
      rfl
    refine ⟨_, exec_frameArrival arrives, fun hnone => ?_, fun r hr => ⟨?_, fun hpass => ?_, fun hvalid hm hw => ?_,
      fun hvalid hw => ?_, fun v hvalid hp hw hv hmotion => ?_⟩, ?_, ?_, ?_⟩
    · rw [only.valves, only.badFrame, snoop_position_malformed hk hnone, countBad_eq]
      simp
    · rw [only.badFrame, snoop_position hk hr, forward_badFrame]
    · have passed := (core r hr).trans (congrArg (luUpdate s.nv) (positionReport_passed hpass))
      have kept := (touchIndex_only s.nv .stationIndex (u8 f 1) s.core).trans (luUpdate_only s.nv _)
      rw [only.valves, only.slots, only.ic, passed, kept.ds, kept.ic]
      exact ⟨⟨_, rfl, passed⟩, rfl, rfl, rfl⟩
    · exact markAt_touchIndex_corrected _ hvalid hm hw
    · exact markAt_touchIndex_poisoned _ hvalid hw
    · have read := touchIndex_only s.nv .stationIndex (u8 f 1) s.core
      have idle : motionOf v (touchIndex s.nv .stationIndex (u8 f 1) s.core) = none := (motionOf_of_ds read.ds).trans hmotion
      have found := (core r hr).trans (congrArg (luUpdate s.nv) ((positionReport_found hvalid hp hw hv).trans (reportFor_idle idle)))
      have update := luUpdate_only s.nv (testLate v (valveOf v (touchIndex s.nv .stationIndex (u8 f 1) s.core)).position r
        (testDisturbed v (valveOf v (touchIndex s.nv .stationIndex (u8 f 1) s.core)).position r
          (setValve v { valveOf v (touchIndex s.nv .stationIndex (u8 f 1) s.core) with position := r.position, echo := r.token }
            (touchIndex s.nv .stationIndex (u8 f 1) s.core))))
      have valves (w : Nat) : valveOf w (settle (snoop f (forward p f s))).core
          = valveOf w (setValve v { valveOf v s.core with position := r.position, echo := r.token }
            (touchIndex s.nv .stationIndex (u8 f 1) s.core)) := by
        rw [valveOf, only.valves, ← valveOf, found, valveOf_of_ds update.ds, valveOf_of_ds (testLate_only _).1,
          valveOf_of_ds (testDisturbed_only _).1, valveOf_of_ds (v := v) read.ds]
      refine ⟨by rw [valves, valveOf_setValve_same], fun w hw => ?_, ?_, ?_⟩
      · rw [valves, valveOf_setValve_other hw, valveOf_of_ds read.ds]
      · rw [only.slots, found, update.ds, (testLate_only _).1, (testDisturbed_only _).1, setValve_ds_slots, read.ds]
      · rw [only.ic, found, update.ic, (testLate_only _).2, (testDisturbed_only _).2, setValve_ic, read.ic]
    · rw [only.nv, hnv, forward_nv]
    · rw [only.handler, hhandler, forward_handler]
    · rw [only.wu]
      cases hr : positionOf (frameBody f) with
      | none => rw [snoop_position_malformed hk hr, countBad_eq, forward_core]
      | some r =>
        obtain ⟨_, _, _, _, _, _, _, _, hseq, _⟩ := (Moves.positionReport_of s.nv (.refl s.core) (u8 f 1) r).frame
        rw [core r hr, (luUpdate_only s.nv _).wu, hseq]

/-- Settles O18, by the cases of `reportFor`. -/
theorem reportsMoveTheirMotion : Obligations.ReportsMoveTheirMotion := by
  intro p f s r v x c d hup hroom hf hsource hretired hdest hk hr hvalid hp hw hv hx hc hd
  have arrives := frameArrives_forwarded hup hroom hf hsource hretired hdest
  obtain ⟨hnv, hhandler, _⟩ := snoop_only f (forward p f s)
  have read : c.ds = s.core.ds := by rw [hc, (touchIndex_only ..).ds]
  have noted : valveOf v c = x := (valveOf_of_ds read).trans hx.symm
  have core : (snoop f (forward p f s)).core = luUpdate s.nv (reportFor s.nv v r c) := by
    rw [snoop_position (s := forward p f s) hk hr, forward_nv, forward_core, hc]
    exact congrArg (luUpdate s.nv) (positionReport_found hvalid hp hw hv)
  have status : valveOf v d = { x with position := r.position, echo := r.token } := by rw [hd, valveOf_setValve_same]
  refine ⟨_, exec_frameArrival arrives, by rw [hnv, forward_nv], by rw [hhandler, forward_handler], fun k m hm => ?_, fun hm => ?_⟩
  · have inFlight : reportFor s.nv v r c = reportInFlight s.nv k m r d := by
      rw [reportFor_inFlight ((motionOf_of_ds read).trans hm), noted, hd]
    rw [core, inFlight]
    refine ⟨fun ht => by rw [reportInFlight_otherToken ht], fun ht => ⟨fun hmove hissued => ?_, fun hmove hmoving => ?_,
      fun hidle hat => ?_, fun hidle hshort => ?_, fun hjam => ?_⟩⟩
    · rw [reportInFlight_moving ht hmove, if_pos hissued]
      rfl
    · rw [reportInFlight_moving ht hmove, if_neg (by simp [hmoving])]
    · rw [reportInFlight_idle ht hidle, if_pos hat]
      rfl
    · rw [reportInFlight_idle ht hidle, if_neg hshort]
      rfl
    · rw [reportInFlight_jammed ht hjam]
      rfl
  · have idle : reportFor s.nv v r c = testLate v x.position r (testDisturbed v x.position r d) := by
      rw [reportFor_idle ((motionOf_of_ds read).trans hm), noted, hd]
    have disturbed : valveOf v (testDisturbed v x.position r d) = { x with position := r.position, echo := r.token } :=
      (valveOf_of_ds (testDisturbed_only _).1).trans status
    refine ⟨testDisturbed v x.position r d, _, core.trans (congrArg _ idle), fun h => ?_, fun h => ?_, fun a ha => ⟨fun h => ?_, fun h => ?_⟩, fun ha => ?_⟩
    · exact if_pos (by rw [status]; exact h)
    · exact if_neg (by rw [status]; exact h)
    · rw [testLate, disturbed]
      dsimp only
      rw [ha]
      exact if_pos h
    · rw [testLate, disturbed]
      dsimp only
      rw [ha]
      exact if_neg h
    · rw [testLate, disturbed]
      dsimp only
      rw [ha]

end Sys2Proof.Proofs
end

section
/-! The swap and the start-up check (O9): what each leaves as it was, the marks and the home segments. -/

namespace Sys2Proof.Machine

open Sys2Proof.Claims

/-! ### What a swap leaves as it was (03 R51-R55) -/

/-- The table state, the start-up check, the holds, the compile state and result and the last-sample-sequence table are as they
were. -/
structure FrameKept (a c : Core) : Prop where
  valid : c.ts.valid = a.ts.valid
  checking : c.ts.checking = a.ts.checking
  dynamic : c.ts.dynamic = a.ts.dynamic
  compile : c.ts.compile = a.ts.compile
  last : c.ts.last = a.ts.last
  lastSeq : c.wu.lastSeq = a.wu.lastSeq

theorem FrameKept.trans {a b c : Core} (h : FrameKept a b) (k : FrameKept b c) : FrameKept a c :=
  ⟨k.valid.trans h.valid, k.checking.trans h.checking, k.dynamic.trans h.dynamic, k.compile.trans h.compile, k.last.trans h.last,
    k.lastSeq.trans h.lastSeq⟩

theorem frameKept_moves {nv : Nv} {a c : Core} (h : Moves nv a c) : FrameKept a c := by
  obtain ⟨hvalid, hchecking, hdynamic, _, _, _, hcompile, hlast, hseq, _⟩ := h.frame
  exact ⟨hvalid, hchecking, hdynamic, hcompile, hlast, hseq⟩

theorem frameKept_firstConflict (nv : Nv) (new : Tables) (is : List Incident) (c : Core) :
    FrameKept c (firstConflict nv new is c).2 := frameKept_moves (Moves.firstConflict_of nv new is (.refl c))

/-- What the blocks do once the new bank is active, in its parts. -/
theorem completeSwap_eq {nv : Nv} {c d e f : Core}
    (hd : d = notify .swapDone 0 65535 65535 nv.selector.code (notify .compileDone 0 65535 65535 0 (adoptBank c)))
    (he : e = (List.range 256).foldl (rederive nv) (beginPart d)) (hf : f = e.ds.valves.keys.foldl forgetValve e) :
    completeSwap nv c = admission nv (arbiter nv (luUpdate nv
      (markDirty (presentIn nv .segment f) { f with lu := { f.lu with scores := [] } }))) := by
  have notices : notify .swapDone 0 Config.none16 Config.none16 nv.selector.code (compileDone .ok none 0 (adoptBank c)) = d :=
    hd.symm
  have channels : (List.range Config.sensors).foldl (rederive nv) (beginPart d) = e := he.symm
  unfold adoptBank at notices
  unfold completeSwap
  dsimp only
  rw [notices, channels, ← hf]

theorem frameKept_completeSwap (nv : Nv) (c : Core) : FrameKept (adoptBank c) (completeSwap nv c) := by
  have parts (d e f : Core)
      (hd : d = notify .swapDone 0 65535 65535 nv.selector.code (notify .compileDone 0 65535 65535 0 (adoptBank c)))
      (he : e = (List.range 256).foldl (rederive nv) (beginPart d)) (hf : f = e.ds.valves.keys.foldl forgetValve e) :
      FrameKept (adoptBank c) (completeSwap nv c) := by
    have notices : FrameKept (adoptBank c) d := by
      rw [hd]
      exact frameKept_moves (nv := nv) (((Moves.refl _).notify_of ..).notify_of ..)
    have channels : FrameKept d e := by
      rw [he]
      exact frameKept_moves (Moves.foldl (fun i hi => hi.rederive_of nv i) _ (Moves.refl d).beginPart_of)
    have valves : FrameKept e f := by
      rw [hf]
      exact frameKept_moves (nv := nv) (Moves.foldl (fun v hv => hv.forgetValve_of v) _ (.refl e))
    have scores : FrameKept f { f with lu := { f.lu with scores := [] } } := ⟨rfl, rfl, rfl, rfl, rfl, rfl⟩
    rw [completeSwap_eq hd he hf]
    exact (((notices.trans channels).trans valves).trans scores).trans (frameKept_moves
      (((((Moves.refl (nv := nv) _).markDirty_of _).luUpdate_of nv).arbiter_of nv).admission_of nv))
  exact parts _ _ _ rfl rfl rfl

/-! ### Taking a swap, by what its conflict check finds (03 R52, R53) -/

theorem swapped_eq (nv : Nv) : nv.swapped = { nv with
    selector := nv.selector.other, generation := if nv.generation = 65535 then 1 else nv.generation + 1 } := rfl

theorem compileDone_named (r : CompileResult) (t : TableName) (i n : Nat) (c : Core) : compileDone r (some (t, i)) n c =
    notify .compileDone n (if t = .segment then 65535 else i) (if t = .segment then i else 65535) (r.code + 16 * t.code) c := by
  cases t <;> rfl

section
variable {nv : Nv} {c d : Core}

theorem takeSwap_completed (h : firstConflict nv nv.inactive.tables (byOrder (live c)) c = (none, d)) :
    takeSwap nv c = (nv.swapped, completeSwap nv.swapped d) := by rw [takeSwap, h]

theorem takeSwap_abandoned {n : Nat} {t : TableName} {i : Nat}
    (h : firstConflict nv nv.inactive.tables (byOrder (live c)) c = (some (n, t, i), d)) :
    takeSwap nv c = (nv, conflicted nv n t i d) := by
  rw [takeSwap, h]
  dsimp only
  rw [compileDone_named]
  rfl

theorem frameKept_conflicted (nv : Nv) (n : Nat) (t : TableName) (i : Nat) (d : Core) :
    FrameKept (compileEnds .conflict d) (conflicted nv n t i d) :=
  frameKept_moves ((((Moves.refl (nv := nv) (compileEnds .conflict d)).notify_of .compileDone n
    (if t = .segment then 65535 else i) (if t = .segment then i else 65535) (7 + 16 * t.code)).luUpdate_of nv).admission_of nv)

end

/-- Whatever the conflict check finds, the compile is over, and what a swap does not concern is as it was. -/
theorem takeSwap_ends (nv : Nv) (c : Core) : (takeSwap nv c).2.ts.compile = .idle
    ∧ ((takeSwap nv c).2.ts.last = some .ok ∨ (takeSwap nv c).2.ts.last = some .conflict)
    ∧ (takeSwap nv c).2.ts.checking = c.ts.checking ∧ (takeSwap nv c).2.ts.dynamic = c.ts.dynamic
    ∧ (takeSwap nv c).2.wu.lastSeq = c.wu.lastSeq ∧ (takeSwap nv c).1.settings = nv.settings
    ∧ (takeSwap nv c).1.persistent = nv.persistent := by
  have check := frameKept_firstConflict nv nv.inactive.tables (byOrder (live c)) c
  cases h : firstConflict nv nv.inactive.tables (byOrder (live c)) c with
  | mk found d =>
    rw [h] at check
    cases found with
    | none =>
      rw [takeSwap_completed h]
      have kept := frameKept_completeSwap nv.swapped d
      dsimp only
      rw [kept.compile, kept.last, kept.checking, kept.dynamic, kept.lastSeq]
      exact ⟨rfl, .inl rfl, check.checking, check.dynamic, check.lastSeq, rfl, rfl⟩
    | some x =>
      obtain ⟨n, t, i⟩ := x
      rw [takeSwap_abandoned h]
      have kept := frameKept_conflicted nv n t i d
      dsimp only
      rw [kept.compile, kept.last, kept.checking, kept.dynamic, kept.lastSeq]
      exact ⟨rfl, .inr rfl, check.checking, check.dynamic, check.lastSeq, rfl, rfl⟩

section
variable {nv : Nv} {c : Core}

theorem proceed_idle (h : c.ip.engine = .idle) : proceed nv c = takeSwap nv c := by rw [proceed, h]

theorem proceed_pends (h : c.ip.engine ≠ .idle) :
    proceed nv c = (nv, { c with ts := { c.ts with compile := .swapPending } }) := by
  unfold proceed
  split
  · next e => exact absurd e h
  · rfl

end

/-! ### The start-up check reads the bank (02 R27, R29; log 12, log 13) -/

theorem touchPlace_marks {nv : Nv} {p : Place} (h : nv.active.wrongAt p ≠ none) (c : Core) :
    markAt (touchPlace nv p c) p ≠ none := by
  cases hw : nv.active.wrongAt p with
  | none => exact absurd hw h
  | some w =>
    cases hm : markAt c p with
    | some m => exact ((Moves.marks_kept ((Moves.refl (nv := nv) c).touchPlace_of nv p) p).2 (by rw [hm]; exact Option.some_ne_none m))
    | none =>
      cases w with
      | one =>
        rw [touchPlace_one hw hm, markAt, tableError_ts, Sparse.at?_put_same]
        exact Option.some_ne_none _
      | two =>
        rw [(markAt_touchPlace nv p c).2 (.inl hw)]
        exact Option.some_ne_none _

/-- The reads of places, in a given order. -/
theorem touchPlaces_moves (nv : Nv) (ps : List Place) (c : Core) : Moves nv c (ps.foldl (fun c p => touchPlace nv p c) c) :=
  Moves.foldl (f := fun c p => touchPlace nv p c) (fun p hp => hp.touchPlace_of nv p) ps (.refl c)

theorem touchPlaces_marks {nv : Nv} {p : Place} (h : nv.active.wrongAt p ≠ none) : ∀ {ps : List Place} (c : Core), p ∈ ps →
    markAt (ps.foldl (fun c p => touchPlace nv p c) c) p ≠ none
  | [], _, hp => absurd hp List.not_mem_nil
  | q :: qs, c, hp => by
    rcases List.mem_cons.1 hp with rfl | hp
    · exact (Moves.marks_kept (touchPlaces_moves nv qs _) p).2 (touchPlace_marks h c)
    · exact touchPlaces_marks (ps := qs) h _ hp

/-- A mark that is there is the one that the check code shows. -/
theorem markAt_of_shown {nv : Nv} {c : Core} {p : Place} (h : Moves.MarksShown nv c) (hm : markAt c p ≠ none) :
    (nv.active.wrongAt p = some .two → markAt c p = some .poisoned)
      ∧ (nv.active.wrongAt p = some .one → markAt c p = some .corrected) := by
  obtain ⟨m, hm⟩ := Option.ne_none_iff_exists'.1 hm
  rw [hm]
  constructor
  · intro hw
    cases m with
    | poisoned => rfl
    | corrected => exact nomatch ((h p).1 hm).symm.trans (Moves.damage_of_wrongAt hw)
  · intro hw
    cases m with
    | corrected => rfl
    | poisoned => exact nomatch ((h p).2 hm).symm.trans (Moves.damage_of_wrongAt hw)

/-- A place that shows no wrong bit has no mark. -/
theorem markAt_of_sound {nv : Nv} {c : Core} {p : Place} (h : Moves.MarksShown nv c) (hd : nv.active.damage.at? p.key = none) :
    markAt c p = none := by
  cases hm : markAt c p with
  | none => rfl
  | some m =>
    cases m with
    | corrected => exact nomatch hd.symm.trans ((h p).1 hm)
    | poisoned => exact nomatch hd.symm.trans ((h p).2 hm)

theorem marksShown_nil {nv : Nv} {c : Core} (h : c.ts.map = []) : Moves.MarksShown nv c := by
  intro p
  rw [markAt, h]
  simp [Sparse.at?]

/-- The key of a place within its area names it. -/
theorem ofKey_key {p : Place} (h : p.wellFormed = true) : Place.ofKey p.key = p := by
  obtain ⟨a, i⟩ := p
  have small : i < 2048 := by
    simp only [Place.wellFormed, Bool.and_eq_true, decide_eq_true_eq] at h
    refine Nat.lt_of_lt_of_le h.2 ?_
    cases a <;> decide
  have index : (a.code * 2048 + i) % 2048 = i := by omega
  have area : (a.code * 2048 + i) / 2048 = a.code := by omega
  rw [Place.ofKey, Place.key, index, area]
  cases a <;> rfl

theorem mem_damaged {b : Bank} {p : Place} (hp : p.wellFormed = true) (hw : b.wrongAt p ≠ none) :
    p ∈ b.damage.keys.map Place.ofKey := by
  obtain ⟨w, hw⟩ := Option.ne_none_iff_exists'.1 hw
  exact List.mem_map.2 ⟨p.key, List.mem_map.2 ⟨_, Sparse.mem_of_at? (Moves.damage_of_wrongAt hw), rfl⟩, ofKey_key hp⟩

section
variable {nv : Nv} {ps : List Place} {c : Core}

theorem checkBank_none (h : nv.generation = 0 ∨ nv.active.valid = false) :
    checkBank nv ps c = { c with ts := { c.ts with checking := false } } := if_pos h

theorem checkBank_valid (hg : nv.generation ≠ 0) (hv : nv.active.valid = true) : checkBank nv ps c =
    luUpdate nv ((ps ++ nv.active.damage.keys.map Place.ofKey).foldl (fun c p => touchPlace nv p c)
      { c with ts := { c.ts with checking := false, valid := true } }) :=
  if_neg (not_or.2 ⟨hg, by simp [hv]⟩)

end

/-! ### Home segments (04 R59) -/

/-- Recording home segments changes these alone. -/
structure HomesOnly (c d : Core) : Prop where
  ts : d.ts = c.ts
  lu : d.lu = c.lu
  ic : d.ic = c.ic
  ip : d.ip = c.ip
  ds : d.ds = c.ds
  log : d.log = c.log
  lastSeq : d.wu.lastSeq = c.wu.lastSeq
  channels : ∀ i, channelOf i d = { channelOf i c with home := (channelOf i d).home }

theorem homeOf_congr {nv : Nv} {i : Nat} {c d : Core} (h : d.ts = c.ts) : homeOf nv i d = homeOf nv i c := by
  rw [homeOf, homeOf, seen, seen, poisonedAt, poisonedAt, markAt, markAt, h]

theorem recordHome_only (nv : Nv) (c : Core) (j : Nat) : HomesOnly c (recordHome nv c j) := by
  refine ⟨rfl, rfl, rfl, rfl, rfl, rfl, rfl, fun i => ?_⟩
  rw [recordHome]
  by_cases h : i = j
  · subst h
    rw [channelOf_setChannel_same]
  · rw [channelOf_setChannel_other h]

theorem recordHomes_only (nv : Nv) : ∀ (is : List Nat) (c : Core), HomesOnly c (is.foldl (recordHome nv) c)
  | [], c => ⟨rfl, rfl, rfl, rfl, rfl, rfl, rfl, fun _ => rfl⟩
  | j :: is, c => by
    have first := recordHome_only nv c j
    have rest := recordHomes_only nv is (recordHome nv c j)
    exact ⟨rest.ts.trans first.ts, rest.lu.trans first.lu, rest.ic.trans first.ic, rest.ip.trans first.ip,
      rest.ds.trans first.ds, rest.log.trans first.log, rest.lastSeq.trans first.lastSeq,
      fun i => by rw [List.foldl_cons, rest.channels, first.channels]⟩

theorem home_recordHomes (nv : Nv) (i : Nat) : ∀ (is : List Nat) (c : Core), (channelOf i c).home = homeOf nv i c ∨ i ∈ is →
    (channelOf i (is.foldl (recordHome nv) c)).home = homeOf nv i c
  | [], c, h => h.resolve_right List.not_mem_nil
  | j :: is, c, h => by
    have same : homeOf nv i (recordHome nv c j) = homeOf nv i c := homeOf_congr (recordHome_only nv c j).ts
    rw [List.foldl_cons, ← same]
    refine home_recordHomes nv i is _ ?_
    rw [same]
    by_cases hij : i = j
    · subst hij
      exact .inl (by rw [recordHome, channelOf_setChannel_same])
    · rcases h with h | h
      · exact .inl (by rw [recordHome, channelOf_setChannel_other hij, h])
      · exact .inr ((List.mem_cons.1 h).resolve_left hij)

theorem homeOf_none {nv : Nv} {i : Nat} {c : Core} (h : c.ts.valid = false ∨ nv.active.tables.sensors.at? i = none) :
    homeOf nv i c = none := by rw [homeOf, seen_absent h]

theorem homeOf_present {nv : Nv} {i : Nat} {c : Core} {r : Record} (hv : c.ts.valid = true)
    (hr : nv.active.tables.sensors.at? i = some r) :
    homeOf nv i c = if markAt c ⟨.sensor, i⟩ = some .poisoned then none else some r.sensor.home := by
  rw [homeOf, seen_present (t := .sensor) hv hr]
  by_cases h : markAt c ⟨TableName.sensor.area, i⟩ = some .poisoned
  · rw [if_pos h]
    exact (if_pos h).symm
  · rw [if_neg h]
    exact (if_neg h).symm

/-! ### The mode settles (06 R96) -/

theorem settleMode_eq (nv : Nv) (c : Core) : settleMode nv c = { c with ic := { c.ic with
    mode := if nv.settings.startMode = 1 ∧ c.ts.valid = true then .watch else c.ic.mode } } := by
  unfold settleMode
  split <;> rfl

/-- The blocks at the end of the check, before a compile that waited goes on. -/
def checkedCore (nv : Nv) (ps : List Place) (c : Core) : Core :=
  settleMode nv ((List.range Config.sensors).foldl (recordHome nv) (checkBank nv ps c))

theorem checkComplete_eq (nv : Nv) (ps : List Place) (c : Core) : checkComplete nv ps c =
    if (checkedCore nv ps c).ts.compile = .compiling true then proceed nv (checkedCore nv ps c)
    else (nv, checkedCore nv ps c) := rfl

/-- What the end of the check adds to what the check of the bank left: home segments and the mode. -/
structure Checked (nv : Nv) (c d : Core) : Prop where
  ts : d.ts = c.ts
  log : d.log = c.log
  ip : d.ip = c.ip
  ds : d.ds = c.ds
  lastSeq : d.wu.lastSeq = c.wu.lastSeq
  channels : ∀ i, channelOf i d = { channelOf i c with home := (channelOf i d).home }
  homes : ∀ i, i < 256 → (channelOf i d).home = homeOf nv i c
  ic : d.ic = { c.ic with mode := if nv.settings.startMode = 1 ∧ c.ts.valid = true then .watch else c.ic.mode }

theorem checked_settleMode {nv : Nv} {c d : Core} (only : HomesOnly c d)
    (homes : ∀ i, i < 256 → (channelOf i d).home = homeOf nv i c) : Checked nv c (settleMode nv d) := by
  rw [settleMode_eq]
  exact ⟨only.ts, only.log, only.ip, only.ds, only.lastSeq, only.channels, homes, by simp only [only.ic, only.ts]⟩

theorem checkedCore_checked (nv : Nv) (ps : List Place) (c : Core) : Checked nv (checkBank nv ps c) (checkedCore nv ps c) :=
  checked_settleMode (recordHomes_only nv _ _) fun i hi => home_recordHomes nv i _ _ (.inr (List.mem_range.2 hi))

theorem checkBank_cases (nv : Nv) : (nv.generation = 0 ∨ nv.active.valid = false)
    ∨ (nv.generation ≠ 0 ∧ nv.active.valid = true) := by
  by_cases h : nv.generation = 0 ∨ nv.active.valid = false
  · exact .inl h
  · obtain ⟨hg, ha⟩ := not_or.1 h
    exact .inr ⟨hg, by simpa using ha⟩

theorem checkBank_tableState {nv : Nv} {c : Core} (ps : List Place) (hv : c.ts.valid = false) :
    (checkBank nv ps c).ts.valid = true ↔ nv.generation ≠ 0 ∧ nv.active.valid = true := by
  rcases checkBank_cases nv with h | ⟨hg, ha⟩
  · rw [checkBank_none h]
    dsimp only
    rw [hv]
    refine ⟨fun e => absurd e Bool.false_ne_true, fun ⟨hg, ha⟩ => ?_⟩
    rcases h with h | h
    · exact absurd h hg
    · exact absurd (h.symm.trans ha) Bool.false_ne_true
  · rw [checkBank_valid hg ha]
    refine ⟨fun _ => ⟨hg, ha⟩, fun _ => ?_⟩
    rw [(luUpdate_only nv _).valid, (LocateOnly.foldl (fun c p => touchPlace_only nv p c) _ _).valid]

/-- What the check of the bank leaves: the check over, and the rest as reads and a recomputation leave it. -/
structure CheckOnly (c d : Core) : Prop where
  checking : d.ts.checking = false
  wu : d.wu = c.wu
  ic : d.ic = c.ic
  ip : d.ip = c.ip
  ds : d.ds = c.ds
  compile : d.ts.compile = c.ts.compile
  dynamic : d.ts.dynamic = c.ts.dynamic
  lock : d.ts.lock = c.ts.lock
  shadow : d.ts.shadow = c.ts.shadow
  window : d.ts.window = c.ts.window
  last : d.ts.last = c.ts.last

theorem checkBank_only (nv : Nv) (ps : List Place) (c : Core) : CheckOnly c (checkBank nv ps c) := by
  rcases checkBank_cases nv with h | ⟨hg, ha⟩
  · rw [checkBank_none h]
    exact ⟨rfl, rfl, rfl, rfl, rfl, rfl, rfl, rfl, rfl, rfl, rfl⟩
  · rw [checkBank_valid hg ha]
    have read := (LocateOnly.foldl (fun c p => touchPlace_only nv p c) (ps ++ nv.active.damage.keys.map Place.ofKey)
      { c with ts := { c.ts with checking := false, valid := true } }).trans (luUpdate_only nv _)
    exact ⟨read.checking, read.wu, read.ic, read.ip, read.ds, read.compile, read.dynamic, read.lock, read.shadow, read.window,
      read.last⟩

/-- The marks that the check of a bank leaves on an empty map are those of its check codes. -/
theorem checkBank_marks {nv : Nv} {ps : List Place} {c : Core} (hmap : c.ts.map = []) (hg : nv.generation ≠ 0)
    (ha : nv.active.valid = true) : Moves.MarksShown nv (checkBank nv ps c)
      ∧ ∀ p : Place, p.wellFormed = true → nv.active.wrongAt p ≠ none → markAt (checkBank nv ps c) p ≠ none := by
  rw [checkBank_valid hg ha]
  have start : Moves.MarksShown nv { c with ts := { c.ts with checking := false, valid := true } } := marksShown_nil hmap
  have reads := touchPlaces_moves nv (ps ++ nv.active.damage.keys.map Place.ofKey)
    { c with ts := { c.ts with checking := false, valid := true } }
  refine ⟨(reads.luUpdate_of nv).marksShown start, fun p hp hw => ?_⟩
  exact (Moves.marks_kept ((Moves.refl _).luUpdate_of nv) p).2
    (touchPlaces_marks hw _ (List.mem_append_right _ (mem_damaged hp hw)))

/-- The end of the check ends it, whatever becomes of a compile that waited. -/
theorem checkComplete_ends (nv : Nv) (ps : List Place) (c : Core) : (checkComplete nv ps c).2.ts.checking = false
    ∧ (checkComplete nv ps c).1.settings = nv.settings ∧ (checkComplete nv ps c).1.persistent = nv.persistent := by
  have checking : (checkedCore nv ps c).ts.checking = false := by
    rw [(checkedCore_checked nv ps c).ts, (checkBank_only nv ps c).checking]
  rw [checkComplete_eq]
  split
  · by_cases hidle : (checkedCore nv ps c).ip.engine = .idle
    · rw [proceed_idle hidle]
      obtain ⟨_, _, hchecking, _, _, hsettings, hpersistent⟩ := takeSwap_ends nv (checkedCore nv ps c)
      exact ⟨hchecking.trans checking, hsettings, hpersistent⟩
    · rw [proceed_pends hidle]
      exact ⟨checking, rfl, rfl⟩
  · exact ⟨checking, rfl, rfl⟩

end Sys2Proof.Machine

namespace Sys2Proof.Proofs

open Sys2Proof Sys2Proof.Machine Sys2Proof.Claims

/-- An event that can write the selector word ends as the statements say. -/
theorem swap_ends {i : Instr} {f : Nv → Core → Nv × Core} {s u : State} {nv : Nv} {c : Core}
    (hrow : exec i s = .next (swapEvent f u)) (h : f u.nv u.core = (nv, c)) : exec i s = .next (ended nv c u) := by
  rw [hrow, swapEvent, h]
  rfl

/-- Settles O9: the check of the bank, the home segments and the mode, each by its own lemmas, and then the compile that waited. -/
theorem startUpCheckSettlesTablesAndMode : Obligations.StartUpCheckSettlesTablesAndMode := by
  have row (ps : List Place) (s : State) (h : s.core.ts.checking = true) : exec (.startUpCheckComplete ps) s
      = .next (swapEvent (fun nv c => checkComplete nv ps c) { s with ring := { s.ring with bypass := false } }) :=
    congrArg Host.Outcome.next (if_pos h)
  refine ⟨fun ps s h => congrArg Host.Outcome.next (if_neg (by simp [h])), fun ps s h => ⟨_, row ps s h, ?_⟩,
    fun ps s u h hv hmap hmode hu => ⟨checkedCore s.nv ps s.core, ?_⟩⟩
  · obtain ⟨hchecking, hsettings, hpersistent⟩ := checkComplete_ends s.nv ps s.core
    have only := settle_only { s with
      ring := { s.ring with bypass := false }, nv := (checkComplete s.nv ps s.core).1
      core := luUpdate (checkComplete s.nv ps s.core).1 (checkComplete s.nv ps s.core).2 }
    refine ⟨?_, only.bypass, only.handler, ?_, ?_⟩
    · exact (congrArg (fun ts => ts.checking) only.ts).trans ((luUpdate_only _ _).checking.trans hchecking)
    · exact (congrArg (fun nv => nv.settings) only.nv).trans hsettings
    · exact (congrArg (fun nv => nv.persistent) only.nv).trans hpersistent
  · subst hu
    have bank := checkBank_only s.nv ps s.core
    have state := checkBank_tableState (nv := s.nv) ps hv
    have checked := checkedCore_checked s.nv ps s.core
    have compile : (checkedCore s.nv ps s.core).ts.compile = s.core.ts.compile := by rw [checked.ts, bank.compile]
    have engine : (checkedCore s.nv ps s.core).ip = s.core.ip := checked.ip.trans bank.ip
    refine ⟨fun hc => swap_ends (row ps s h) ?_, fun hc he => swap_ends (row ps s h) ?_, fun hc he => swap_ends (row ps s h) ?_, ?_⟩
    · exact (checkComplete_eq ..).trans (if_neg (by rw [compile]; exact hc))
    · exact ((checkComplete_eq ..).trans (if_pos (by rw [compile]; exact hc))).trans (proceed_idle (by rw [engine]; exact he))
    · exact ((checkComplete_eq ..).trans (if_pos (by rw [compile]; exact hc))).trans (proceed_pends (by rw [engine]; exact he))
    · have marks (p : Place) : markAt (checkedCore s.nv ps s.core) p = markAt (checkBank s.nv ps s.core) p := by
        rw [markAt, checked.ts, ← markAt]
      refine ⟨by rw [checked.ts, bank.checking], by rw [checked.ts]; exact state, ?_, fun hnone => ⟨?_, ?_, ?_, fun i hi => ?_⟩,
        fun hg ha => ?_, fun p hp => ofKey_key hp, fun i => ?_, by rw [checked.lastSeq, bank.wu], engine,
        checked.ds.trans bank.ds, compile, by rw [checked.ts, bank.dynamic], by rw [checked.ts, bank.lock],
        by rw [checked.ts, bank.shadow], by rw [checked.ts, bank.window], by rw [checked.ts, bank.last]⟩
      · simp only [checked.ic, bank.ic, state, hmode]
      · rw [checked.ts, checkBank_none hnone]
        exact hmap
      · rw [checked.ts, checkBank_none hnone]
      · rw [checked.log, checkBank_none hnone]
      · rw [checked.homes i hi, homeOf_none (.inl _)]
        rw [checkBank_none hnone]
        exact hv
      · obtain ⟨shown, marked⟩ := checkBank_marks (ps := ps) hmap hg ha
        refine ⟨fun p hp => ?_, fun p hp => ?_, fun x hx => ?_, fun i hi => ?_⟩
        · rw [marks]
          exact ⟨fun hw => (markAt_of_shown shown (marked p hp (by simp [hw]))).1 hw,
            fun hw => (markAt_of_shown shown (marked p hp (by simp [hw]))).2 hw⟩
        · rw [marks, markAt_of_sound shown hp]
        · rw [checked.log, checked.ts, checkBank_valid hg ha, hx]
          exact ⟨rfl, rfl⟩
        · rw [checked.homes i hi]
          cases hr : s.nv.active.tables.sensors.at? i with
          | none => rw [homeOf_none (.inr hr)]
          | some r =>
            have hp : (⟨.sensor, i⟩ : Place).wellFormed = true := by
              rw [Place.wellFormed, Bool.and_eq_true, decide_eq_true_eq, decide_eq_true_eq]
              exact ⟨Nat.zero_le i, hi⟩
            have found : markAt (checkBank s.nv ps s.core) ⟨.sensor, i⟩ = some .poisoned
                ↔ s.nv.active.wrongAt ⟨.sensor, i⟩ = some .two := by
              refine ⟨fun hm => ?_, fun hw => (markAt_of_shown shown (marked _ hp (by simp [hw]))).1 hw⟩
              have held : s.nv.active.tables.holds ⟨.sensor, i⟩ = true := by simp [Tables.holds, Sparse.has, hr]
              rw [Bank.wrongAt, if_pos held]
              exact (shown _).2 hm
            rw [homeOf_present (state.2 ⟨hg, ha⟩) hr]
            simp only [found]
      · rw [checked.channels i]
        simp only [channelOf, bank.wu]

end Sys2Proof.Proofs
end

section
/-! The conflict check and the swap (O35). -/

namespace Sys2Proof.Machine

open Sys2Proof.Claims

/-! ### The end of the writing (03 R49, R51) -/

section
variable {nv : Nv} {c : Core}

theorem compileWriteDone_none (h : c.ts.compile ≠ .compiling false ∨ compileCheck c.ts.shadow ≠ none) :
    compileWriteDone nv c = (nv, c) := if_neg fun ⟨hc, hs⟩ => h.elim (fun h => h hc) fun h => h hs

theorem compileWriteDone_written (hc : c.ts.compile = .compiling false) (hs : compileCheck c.ts.shadow = none) :
    compileWriteDone nv c = if c.ts.checking then
        (nv.setInactive ⟨c.ts.shadow, [], true⟩, { c with ts := { c.ts with compile := .compiling true } })
      else proceed (nv.setInactive ⟨c.ts.shadow, [], true⟩) c := if_pos ⟨hc, hs⟩

end

/-! ### The sides of a valve (03 R52) -/

section
variable {nv : Nv} {v g : Nat} {gs : List Nat} {c d : Core}

/-- A list that is POISONED, or that does not name the valve, is passed over. -/
theorem sidesFromLists_passes (hd : d = touchIndex nv .segmentIndex g c)
    (h : indexPoisoned .segmentIndex g d = true ∨ ∀ far, (v, far) ∉ boundaryList nv g d) :
    sidesFromLists nv v (g :: gs) c = sidesFromLists nv v gs d := by
  subst hd
  rw [sidesFromLists]
  split
  · rfl
  · next hp =>
    have unnamed := h.resolve_left hp
    have none_found : (boundaryList nv g (touchIndex nv .segmentIndex g c)).find? (fun p => p.1 == v) = none := by
      refine List.find?_eq_none.2 fun p hp hv => ?_
      obtain ⟨w, far⟩ := p
      obtain rfl : w = v := by simpa using hv
      exact unnamed far hp
    rw [none_found]

theorem sidesFromLists_names {p : Nat × Nat} (hd : d = touchIndex nv .segmentIndex g c)
    (hp : indexPoisoned .segmentIndex g d = false) (hf : (boundaryList nv g d).find? (fun p => p.1 == v) = some p) :
    sidesFromLists nv v (g :: gs) c = (some (g, p.2), d) := by
  subst hd
  rw [sidesFromLists]
  rw [if_neg (by simp [hp]), hf]

variable {i : Incident}

theorem oldSides_value {r : Record} (hd : d = touchEntry nv .valve v c) (h : seen nv .valve v d = .value r) :
    oldSides nv i v c = (some (r.valve.sideA, r.valve.sideB), d) := by
  subst hd
  rw [oldSides, h]

theorem oldSides_poisoned (hd : d = touchEntry nv .valve v c) (h : seen nv .valve v d = .poisoned) :
    oldSides nv i v c = sidesFromLists nv v i.isolation d := by
  subst hd
  rw [oldSides, h]

theorem oldSides_absent (hd : d = touchEntry nv .valve v c) (h : seen nv .valve v d = .absent) :
    oldSides nv i v c = (none, d) := by
  subst hd
  rw [oldSides, h]

end

/-! ### The conflict check, valve by valve and incident by incident (03 R52) -/

theorem joinsSides_eq (new : Tables) (v : Nat) (sides : Option (Nat × Nat)) : joinsSides new v sides = valvePasses new v sides := rfl

section
variable {nv : Nv} {new : Tables} {i : Incident} {v : Nat} {vs : List Nat} {c d : Core} {sides : Option (Nat × Nat)}

theorem failingValve_cons (h : oldSides nv i v c = (sides, d)) : failingValve nv new i (v :: vs) c =
    if valvePasses new v sides then failingValve nv new i vs d else (some v, d) := by
  rw [failingValve, h]
  rfl

variable {is : List Incident}

theorem firstConflict_valve (h : failingValve nv new i (i.closure.map fun e => e.valve) c = (some v, d)) :
    firstConflict nv new (i :: is) c = (some (i.number, .valve, v), d) := by rw [firstConflict, h]

theorem firstConflict_segment {g : Nat} (h : failingValve nv new i (i.closure.map fun e => e.valve) c = (none, d))
    (hg : i.isolation.find? (fun g => !new.segments.has g) = some g) :
    firstConflict nv new (i :: is) c = (some (i.number, .segment, g), d) := by rw [firstConflict, h, hg]

theorem firstConflict_passes (h : failingValve nv new i (i.closure.map fun e => e.valve) c = (none, d))
    (hg : i.isolation.find? (fun g => !new.segments.has g) = none) :
    firstConflict nv new (i :: is) c = firstConflict nv new is d := by rw [firstConflict, h, hg]

end

theorem has_eq_false_iff {m : Sparse Record} {g : Nat} : (!m.has g) = true ↔ m.at? g = none := by
  rw [Sparse.has]
  cases m.at? g <;> simp

/-! ### Where every read finds what is held already (02 R29) -/

section
variable {nv : Nv} {c : Core} (hfind : NothingToFind nv c)
include hfind

theorem touchPlace_nothing (p : Place) : touchPlace nv p c = c := by
  rcases hfind p with h | h | ⟨hw, hm⟩
  · exact touchPlace_sound h
  · exact touchPlace_poisoned h
  · exact touchPlace_corrected hw hm

theorem touchEntry_nothing (t : TableName) (i : Nat) : touchEntry nv t i c = c := by
  unfold touchEntry
  rw [touchPlace_nothing hfind]
  exact ite_self c

theorem touchIndex_nothing (a : Area) (i : Nat) : touchIndex nv a i c = c := by
  unfold touchIndex
  rw [touchPlace_nothing hfind]
  exact ite_self c

theorem sidesFromLists_nothing (v : Nat) : ∀ gs : List Nat, sidesFromLists nv v gs c = (gs.findSome? fun g =>
    if indexPoisoned .segmentIndex g c then none
    else ((boundaryList nv g c).find? fun p => p.1 == v).map fun p => (g, p.2), c)
  | [] => rfl
  | g :: gs => by
    have same := (touchIndex_nothing hfind .segmentIndex g).symm
    cases hp : indexPoisoned .segmentIndex g c with
    | true =>
      rw [sidesFromLists_passes same (.inl hp), sidesFromLists_nothing v gs, List.findSome?_cons, hp]
      rfl
    | false =>
      cases hf : (boundaryList nv g c).find? fun p => p.1 == v with
      | none =>
        have unnamed (far : Nat) (h : (v, far) ∈ boundaryList nv g c) : False := by
          simpa using List.find?_eq_none.1 hf _ h
        rw [sidesFromLists_passes same (.inr unnamed), sidesFromLists_nothing v gs, List.findSome?_cons, hp, hf]
        rfl
      | some p =>
        rw [sidesFromLists_names same hp hf, List.findSome?_cons, hp, hf]
        rfl

theorem oldSides_nothing (i : Incident) (v : Nat) : oldSides nv i v c = (sidesInActive nv c i v, c) := by
  have same := (touchEntry_nothing hfind .valve v).symm
  cases hs : seen nv .valve v c with
  | value r => rw [oldSides_value same hs, sidesInActive, hs]
  | poisoned => rw [oldSides_poisoned same hs, sidesFromLists_nothing hfind, sidesInActive, hs]
  | absent => rw [oldSides_absent same hs, sidesInActive, hs]

theorem failingValve_nothing (new : Tables) (i : Incident) : ∀ vs : List Nat, failingValve nv new i vs c =
    (vs.find? fun v => !valvePasses new v (sidesInActive nv c i v), c)
  | [] => rfl
  | v :: vs => by
    rw [failingValve_cons (oldSides_nothing hfind i v), failingValve_nothing new i vs, List.find?_cons]
    cases valvePasses new v (sidesInActive nv c i v) <;> rfl

theorem firstConflict_nothing (new : Tables) : ∀ is : List Incident,
    firstConflict nv new is c = (is.findSome? (conflictOf nv new c), c)
  | [] => rfl
  | i :: is => by
    have valves := failingValve_nothing hfind new i (i.closure.map fun e => e.valve)
    rw [List.find?_map] at valves
    rw [List.findSome?_cons, conflictOf]
    cases hv : i.closure.find? fun e => !valvePasses new e.valve (sidesInActive nv c i e.valve) with
    | some e =>
      rw [firstConflict_valve (v := e.valve) (valves.trans (by rw [Function.comp_def, hv]; rfl))]
    | none =>
      have passed := valves.trans (show _ = (none, c) by rw [Function.comp_def, hv]; rfl)
      have absent : (fun g => !new.segments.has g) = fun g => (new.segments.at? g).isNone := by
        funext g
        rw [Sparse.has]
        cases new.segments.at? g <;> rfl
      cases hg : i.isolation.find? fun g => !new.segments.has g with
      | some g =>
        rw [firstConflict_segment passed hg, ← absent, hg]
        rfl
      | none =>
        rw [firstConflict_passes passed hg, firstConflict_nothing new is, ← absent, hg]
        rfl

end

/-! ### What follows a completed swap (03 R54, R55) -/

theorem homeOf_value {nv : Nv} {i : Nat} {c : Core} {r : Record} (h : seen nv .sensor i c = .value r) :
    homeOf nv i c = some r.sensor.home := by rw [homeOf, h]

theorem homeOf_unseen {nv : Nv} {i : Nat} {c : Core} (h : ∀ r, seen nv .sensor i c ≠ .value r) : homeOf nv i c = none := by
  unfold homeOf
  split
  · next r hr => exact absurd hr (h r)
  · rfl
  · rfl

section
variable {nv : Nv} {i : Nat} {c f : Core} (hf : f = recordHome nv (touchEntry nv .sensor i c) i)
include hf

theorem rederive_covered {g : Nat} (hhome : (channelOf i f).home = some g) (hg : covered g f = true) :
    rederive nv c i = if (channelOf i f).state = .inhibited then f else inhibitChannel nv f i := by
  rw [rederive, ← hf]
  rw [hhome]
  exact if_pos hg

theorem rederive_uncovered (h : ∀ g, (channelOf i f).home = some g → covered g f = false) :
    rederive nv c i = if (channelOf i f).state = .inhibited then releaseChannel f i else f := by
  rw [rederive, ← hf]
  split
  · next g hhome => exact if_neg (by simp [h g hhome])
  · rfl

end

theorem forgetValve_listed {v : Nat} {c : Core} (h : ∃ i ∈ live c, ∃ e ∈ i.closure, e.valve = v) : forgetValve c v = c := by
  refine if_pos ?_
  simpa using h

theorem forgetValve_unlisted {v : Nat} {c : Core} (h : ∀ i ∈ live c, ∀ e ∈ i.closure, e.valve ≠ v) : forgetValve c v =
    setValve v { valveOf v c with position := .unknown, status := .normal, faults := 0 } c := by
  refine if_neg ?_
  simpa using h

end Sys2Proof.Machine

namespace Sys2Proof.Proofs

open Sys2Proof Sys2Proof.Machine Sys2Proof.Claims

section
variable (nv : Nv) (c : Core) (s : State)

/-! What an ended event leaves, of the state it was ended with. -/

theorem ended_nv : (ended nv c s).nv = nv := (settle_only _).nv
theorem ended_handler : (ended nv c s).handler = s.handler := (settle_only _).handler
theorem ended_ts : (ended nv c s).core.ts = (luUpdate nv c).ts := (settle_only _).ts
theorem ended_wu : (ended nv c s).core.wu = c.wu := (settle_only _).wu.trans (luUpdate_only nv c).wu

end

/-- Settles O35: the end of the writing by `proceed`, the conflict check by its recursion, and the completed swap in its parts. -/
theorem compilesEndInASwap : Obligations.CompilesEndInASwap := by
  have row (s : State) : exec .compileWriteDone s = .next (swapEvent compileWriteDone s) := rfl
  refine ⟨fun s h => swap_ends (row s) (compileWriteDone_none h), fun s nv hc hs hnv => ?writing,
    fun nv new is c hfind => firstConflict_nothing hfind new is, fun nv new i is c d => ⟨rfl, fun v h => firstConflict_valve h,
      fun h => ⟨fun pre g post hi hpre hg => ?segment, fun hi => ?passes⟩⟩,
    fun nv new i v vs c d sides h => ⟨rfl, fun hp => ?holds, fun hp => ?fails⟩,
    fun nv i v c d hd => ⟨fun r => oldSides_value hd, oldSides_poisoned hd, oldSides_absent hd⟩,
    fun nv v g gs c d hd => ⟨rfl, sidesFromLists_passes hd, fun far hp hf => sidesFromLists_names hd hp hf⟩,
    fun nv c d e f hd he hf => completeSwap_eq hd he hf, fun nv i c e home he hvalue hnone f hf => ?rederive,
    fun v c => ⟨forgetValve_listed, forgetValve_unlisted⟩⟩
  case segment =>
    refine firstConflict_segment h ?_
    have present : pre.find? (fun g => !new.segments.has g) = none :=
      List.find?_eq_none.2 fun x hx hn => hpre x hx (has_eq_false_iff.1 hn)
    rw [hi, List.find?_append, present, Option.none_or, List.find?_cons_of_pos (p := fun g => !new.segments.has g) (has_eq_false_iff.2 hg)]
  case passes =>
    exact firstConflict_passes h (List.find?_eq_none.2 fun x hx hn => hi x hx (has_eq_false_iff.1 hn))
  case holds => rw [failingValve_cons h, if_pos hp]
  case fails => rw [failingValve_cons h, if_neg (by simp [hp])]
  case rederive =>
    have hhome : home = homeOf nv i e := by
      cases hs : seen nv .sensor i e with
      | value r => rw [hvalue r hs, homeOf_value hs]
      | absent => rw [hnone (by simp [hs]), homeOf_unseen (by simp [hs])]
      | poisoned => rw [hnone (by simp [hs]), homeOf_unseen (by simp [hs])]
    have recorded : f = recordHome nv (touchEntry nv .sensor i c) i := by rw [hf, hhome, he]; rfl
    have channel : channelOf i f = { channelOf i e with home := home } := by rw [hf, channelOf_setChannel_same]
    have covers (g : Nat) : covered g f = covered g e := by rw [hf]; rfl
    refine ⟨fun ⟨g, hg, hc⟩ => ?_, fun hc => ?_⟩
    · have := rederive_covered recorded (g := g) (by rw [channel, hg]) (by rw [covers, hc])
      rw [channel] at this
      exact ⟨fun hi => this.trans (if_pos hi), fun hi => this.trans (if_neg hi)⟩
    · have := rederive_uncovered recorded fun g hg => by rw [covers, hc g (by rw [← hg, channel])]
      rw [channel] at this
      exact ⟨fun hi => this.trans (if_pos hi), fun hi => this.trans (if_neg hi)⟩
  case writing =>
    subst hnv
    have written := compileWriteDone_written (nv := s.nv) hc hs
    refine ⟨fun hchecking => swap_ends (row s) (written.trans (if_pos hchecking)),
      fun hchecking hrun => swap_ends (row s) ((written.trans (if_neg (by simp [hchecking]))).trans (proceed_pends hrun)),
      fun hchecking hidle => ?_⟩
    have swap := (written.trans (if_neg (by simp [hchecking]))).trans (proceed_idle hidle)
    have tables : (s.nv.setInactive ⟨s.core.ts.shadow, [], true⟩).inactive.tables = s.core.ts.shadow := by
      rw [Nv.inactive_setInactive]
    have settings := Nv.setInactive_settings s.nv ⟨s.core.ts.shadow, [], true⟩
    have persistent := Nv.setInactive_persistent s.nv ⟨s.core.ts.shadow, [], true⟩
    have selector := Nv.setInactive_selector s.nv ⟨s.core.ts.shadow, [], true⟩
    have generation := Nv.setInactive_generation s.nv ⟨s.core.ts.shadow, [], true⟩
    generalize s.nv.setInactive ⟨s.core.ts.shadow, [], true⟩ = nv at swap tables settings persistent selector generation ⊢
    obtain ⟨hcompile, _, _, hdynamic, hseq, hsettings, hpersistent⟩ := takeSwap_ends nv s.core
    have check := frameKept_firstConflict nv s.core.ts.shadow (byOrder (live s.core)) s.core
    refine ⟨_, swap_ends (nv := (takeSwap nv s.core).1) (c := (takeSwap nv s.core).2) (row s) swap, ?_, ?_, ?_, ended_handler .., ?_, ?_, fun hnone => ?_, fun hsome => ?_,
      fun d swapped hnone hswapped => ?_, fun d n k i hsome => ?_⟩
    · rw [ended_ts, (luUpdate_only _ _).compile, hcompile]
    · rw [ended_ts, (luUpdate_only _ _).dynamic, hdynamic]
    · rw [ended_wu, hseq]
    · rw [ended_nv, hsettings, settings]
    · rw [ended_nv, hpersistent, persistent]
    · cases hf : firstConflict nv s.core.ts.shadow (byOrder (live s.core)) s.core with
      | mk found d =>
        rw [hf] at hnone check
        dsimp only at hnone
        subst hnone
        have completed := takeSwap_completed (nv := nv) (c := s.core) (d := d) (by rw [tables, hf])
        have kept := frameKept_completeSwap nv.swapped d
        rw [completed, ended_nv, ended_ts, (luUpdate_only _ _).valid, (luUpdate_only _ _).last, kept.valid, kept.last, swapped_eq,
          selector, generation]
        exact ⟨rfl, rfl, rfl⟩
    · cases hf : firstConflict nv s.core.ts.shadow (byOrder (live s.core)) s.core with
      | mk found d =>
        rw [hf] at hsome check
        obtain ⟨⟨n, k, i⟩, rfl⟩ := Option.ne_none_iff_exists'.1 hsome
        have abandoned := takeSwap_abandoned (nv := nv) (c := s.core) (d := d) (by rw [tables, hf])
        have kept := frameKept_conflicted nv n k i d
        rw [abandoned, ended_nv, ended_ts, (luUpdate_only _ _).valid, (luUpdate_only _ _).last, kept.valid, kept.last]
        exact ⟨rfl, check.valid, rfl⟩
    · rw [takeSwap_completed (d := d) (by rw [tables, hnone]), swapped_eq, selector, generation, ← hswapped]
    · rw [takeSwap_abandoned (d := d) (by rw [tables, hsome])]

end Sys2Proof.Proofs
end

section
/-! COPY ACTIVE (O32): what the copy of the active bank leaves in the shadow bank. -/

namespace Sys2Proof.Machine

open Sys2Proof.Claims

/-- An array kept where a condition on the index holds. -/
theorem Sparse.at?_filter_index {α : Type} (f : Nat → Bool) (i : Nat) : ∀ m : Sparse α,
    Sparse.at? (m.filter fun p => f p.1) i = if f i then m.at? i else none
  | [] => by simp [Sparse.at?]
  | (j, x) :: m => by
    have ih := Sparse.at?_filter_index f i m
    by_cases hj : j = i
    · subst hj
      cases hf : f j with
      | true => simp [hf, Sparse.at?]
      | false => simp only [hf] at ih; simpa [hf] using ih
    · have here : Sparse.at? ((j, x) :: m) i = Sparse.at? m i := if_neg hj
      rw [here, ← ih]
      cases hf : f j with
      | true => simp [hf, Sparse.at?, hj]
      | false => simp [hf]

section
variable {nv : Nv} {c : Core}

theorem copiedTable_none (h : c.ts.valid = false) (t : TableName) : copiedTable nv t c = [] := if_neg (by simp [h])

theorem copiedTable_at? (h : c.ts.valid = true) (t : TableName) (i : Nat) : (copiedTable nv t c).at? i =
    if poisonedAt c ⟨t.area, i⟩ then none else (nv.active.tables.of t).at? i := by
  rw [copiedTable, if_pos h, Sparse.at?_filter_index fun i => !poisonedAt c ⟨t.area, i⟩]
  cases poisonedAt c ⟨t.area, i⟩ <;> rfl

theorem poisonedIn_none (h : c.ts.valid = false) (t : TableName) : poisonedIn nv t c = [] := by
  rw [poisonedIn, presentIn, if_neg (by simp [h])]
  rfl

/-- The entries copied and those POISONED are all that are present. -/
theorem length_copiedTable (h : c.ts.valid = true) (t : TableName) :
    (copiedTable nv t c).length + (poisonedIn nv t c).length = (nv.active.tables.of t).length := by
  rw [copiedTable, if_pos h, poisonedIn, presentIn, if_pos h, Sparse.keys, List.filter_map, List.length_map, Nat.add_comm]
  simpa [List.countP_eq_length_filter, Function.comp_def] using
    (List.length_eq_countP_add_countP (fun p : Nat × Record => poisonedAt c ⟨t.area, p.1⟩)).symm

end

/-- The tables that a copy of the active bank puts into the shadow bank. -/
def copiedTables (nv : Nv) (c : Core) : Tables :=
  ⟨copiedTable nv .segment c, copiedTable nv .valve c, copiedTable nv .sensor c, copiedTable nv .association c⟩

theorem copiedTables_of (nv : Nv) (c : Core) (t : TableName) : (copiedTables nv c).of t = copiedTable nv t c := by cases t <;> rfl

/-- The blocks once the four tables have been read and what the reads bear on recomputed. -/
def tablesRead (nv : Nv) (c : Core) : Core := luUpdate nv ([TableName.segment, .valve, .sensor, .association].foldl
  (fun c t => (presentIn nv t c).foldl (fun c i => touchEntry nv t i c) c) c)

theorem tablesRead_only (nv : Nv) (c : Core) : LocateOnly c (tablesRead nv c) :=
  (LocateOnly.foldl (fun c t => LocateOnly.foldl (fun c i => touchEntry_only nv t i c) (presentIn nv t c) c) _ c).trans
    (luUpdate_only nv _)

/-- How many entries the copy took. -/
def copiedCount (nv : Nv) (d : Core) : Nat :=
  ([TableName.segment, .valve, .sensor, .association].map fun t => (copiedTable nv t d).length).sum

/-- How many entries the copy found POISONED. -/
def poisonedCount (nv : Nv) (d : Core) : Nat :=
  ([TableName.segment, .valve, .sensor, .association].map fun t => (poisonedIn nv t d).length).sum

theorem copyActive_eq (nv : Nv) (c : Core) : copyActive nv c =
    ((copiedCount nv (tablesRead nv c), poisonedCount nv (tablesRead nv c)),
      { tablesRead nv c with ts := { (tablesRead nv c).ts with shadow := copiedTables nv (tablesRead nv c) } }) := rfl

theorem counts_none {nv : Nv} {d : Core} (h : d.ts.valid = false) : copiedCount nv d = 0 ∧ poisonedCount nv d = 0 := by
  simp [copiedCount, poisonedCount, copiedTable_none h, poisonedIn_none h]

theorem counts_add {nv : Nv} {d : Core} (h : d.ts.valid = true) : copiedCount nv d + poisonedCount nv d =
    ([TableName.segment, .valve, .sensor, .association].map fun t => (nv.active.tables.of t).length).sum := by
  simp only [copiedCount, poisonedCount, List.map_cons, List.map_nil, List.sum_cons, List.sum_nil, ← length_copiedTable h]
  omega

theorem copyDone_idle {s : State} (h : ∀ o, s.handler ≠ .working (.copyActive o)) : copyDone s = s := by
  unfold copyDone
  split
  · next o ho => exact absurd ho (h o)
  · rfl

end Sys2Proof.Machine

namespace Sys2Proof.Proofs

open Sys2Proof Sys2Proof.Machine Sys2Proof.Claims

/-- What COPY ACTIVE is answered with or begins, on the blocks with the load window closed. -/
theorem carry_copyActive {q : Request} {s : State} (hlength : q.args.length = 0) :
    carry s.nv s.ring (if keepsWindow (0x13 :: q.tag :: q.args) then s.core else closeLoad s.core)
      (origin q 0x13) (0x13 :: q.tag :: q.args) = ⟨replyCopyActive (origin q 0x13) (closed s.core), s.nv, closed s.core⟩ :=
  carry_rightLength rfl hlength

/-- Settles O32: the answer by the compile state, and the copy by the tables it takes. -/
theorem copyActiveFillsTheShadowBank : Obligations.CopyActiveFillsTheShadowBank := by
  refine ⟨fun q s ht => ⟨fun hargs => ?_, fun hargs hbusy => ?_, fun hargs hidle => ?_⟩,
    fun s h => congrArg (fun t => Host.Outcome.next (settle t)) (copyDone_idle h), fun o s ho => ?_⟩
  · exact answers_of_carry rfl ht (carry_wrongLength rfl (mt List.length_eq_zero_iff.1 hargs))
  · have busy : compileBusy (closed s.core) = true := compileBusy_of_ne hbusy
    refine answers_of_carry rfl ht ((carry_copyActive (List.length_eq_zero_iff.2 hargs)).trans ?_)
    rw [replyCopyActive, if_pos busy]
    rfl
  · have idle : compileBusy (closed s.core) = false := compileBusy_of_idle hidle
    refine begins_of_carry rfl ht ((carry_copyActive (List.length_eq_zero_iff.2 hargs)).trans ?_)
    rw [replyCopyActive, if_neg (by simp [idle])]
  · have read := tablesRead_only s.nv s.core
    have copied : copyDone s = serve (handAnswer (o.answer .done
        (put16 (copiedCount s.nv (tablesRead s.nv s.core)) ++ put16 (poisonedCount s.nv (tablesRead s.nv s.core))))
        { s with core := { tablesRead s.nv s.core with
          ts := { (tablesRead s.nv s.core).ts with shadow := copiedTables s.nv (tablesRead s.nv s.core) } } }) := by
      rw [copyDone, ho, copyActive_eq]
    refine ⟨{ tablesRead s.nv s.core with
        ts := { (tablesRead s.nv s.core).ts with shadow := copiedTables s.nv (tablesRead s.nv s.core) } },
      copiedCount s.nv (tablesRead s.nv s.core), poisonedCount s.nv (tablesRead s.nv s.core),
      endsWith_of (congrArg (fun t => Host.Outcome.next (settle t)) copied), ⟨tablesRead s.nv s.core, rfl, rfl⟩,
      fun hnone => ?_, fun hvalid => ?_, read.valid, read.compile, read.window, by rw [read.wu], by rw [read.ic], by rw [read.ic]⟩
    · have none_read := read.valid.trans hnone
      obtain ⟨hcopied, hpoisoned⟩ := counts_none (nv := s.nv) none_read
      refine ⟨hcopied, hpoisoned, ?_⟩
      dsimp only
      simp only [copiedTables, copiedTable_none none_read]
    · have valid_read := read.valid.trans hvalid
      refine ⟨fun t i => ?_, ?_, counts_add valid_read⟩
      · dsimp only
        rw [copiedTables_of, copiedTable_at? valid_read]
        rfl
      · simp only [copiedCount, copiedTables_of]

end Sys2Proof.Proofs
end

section
/-! The checks of a compile and what they report (O34). -/

namespace Sys2Proof.Machine

open Sys2Proof.Claims

/-! ### Records and their bytes (09 R190) -/

theorem exists_record_bytes {bs : List Byte} (h : bs.length = 12) : ∃ r : Record, bs = r.bytes := by
  refine ⟨⟨byteAt bs 0, byteAt bs 1, byteAt bs 2, byteAt bs 3, byteAt bs 4, byteAt bs 5, byteAt bs 6, byteAt bs 7, byteAt bs 8,
    byteAt bs 9, byteAt bs 10, byteAt bs 11⟩, List.ext_getElem h fun i hi _ => ?_⟩
  have byte (k : Nat) (hk : k < bs.length) : bs[k] = byteAt bs k := by simp [byteAt, hk]
  rw [byte i hi]
  exact match i, (h ▸ hi : i < 12) with
    | 0, _ | 1, _ | 2, _ | 3, _ | 4, _ | 5, _ | 6, _ | 7, _ | 8, _ | 9, _ | 10, _ | 11, _ => rfl

theorem Record.ofBytes_none {bs : List Byte} (h : bs.length ≠ 12) : Record.ofBytes bs = none := by
  unfold Record.ofBytes
  split
  · exact absurd rfl h
  · rfl

theorem recordsOf_short {bs : List Byte} (h : bs.length < 12) : recordsOf bs = [] := by
  unfold recordsOf
  split
  · simp only [List.length_cons] at h
    omega
  · rfl

theorem bit0_iff (b : Byte) : b.getLsbD 0 = true ↔ b.toNat % 2 = 1 := by
  rw [BitVec.getLsbD, Nat.testBit_zero, decide_eq_true_eq]

theorem bit1_iff (b : Byte) : b.getLsbD 1 = true ↔ b.toNat / 2 % 2 = 1 := by
  rw [BitVec.getLsbD, Nat.testBit_succ, Nat.testBit_zero, decide_eq_true_eq]

theorem recordReads_bytes (r : Record) : RecordReads r.bytes r :=
  ⟨bit0_iff _, ⟨rfl, rfl, bit0_iff _, bit1_iff _, rfl⟩, ⟨rfl, rfl, rfl, rfl, rfl, rfl, rfl, rfl⟩,
    ⟨rfl, rfl, rfl, rfl, rfl, rfl, rfl, rfl⟩, rfl, rfl, rfl⟩

/-! ### The first entry of a table that meets a condition (03 R48) -/

/-- What a search of a rising table finds: nothing where no entry meets the condition, and else the lowest that does. -/
def FindsFirst (m : Sparse Record) (P : Nat → Record → Prop) (o : Option Nat) : Prop :=
  match o with
  | none => ∀ p ∈ m, ¬P p.1 p.2
  | some i => (∃ r, (i, r) ∈ m ∧ P i r) ∧ ∀ p ∈ m, P p.1 p.2 → i ≤ p.1

theorem FindsFirst.congr {m : Sparse Record} {P Q : Nat → Record → Prop} {o : Option Nat} (h : FindsFirst m P o)
    (heq : ∀ p ∈ m, (P p.1 p.2 ↔ Q p.1 p.2)) : FindsFirst m Q o := by
  cases o with
  | none => exact fun p hp hq => h p hp ((heq p hp).2 hq)
  | some i =>
    obtain ⟨⟨r, hr, hp⟩, hleast⟩ := h
    exact ⟨⟨r, hr, (heq _ hr).1 hp⟩, fun p hp hq => hleast p hp ((heq p hp).2 hq)⟩

/-- A search goes past an entry that does not meet the condition. -/
theorem FindsFirst.skip {p : Nat × Record} {m : Sparse Record} {P : Nat → Record → Prop} {o : Option Nat} (hp : ¬P p.1 p.2)
    (h : FindsFirst m P o) : FindsFirst (p :: m) P o := by
  cases o with
  | none => exact List.forall_mem_cons.2 ⟨hp, h⟩
  | some i =>
    obtain ⟨⟨r, hr, hi⟩, hleast⟩ := h
    exact ⟨⟨r, List.mem_cons_of_mem _ hr, hi⟩, List.forall_mem_cons.2 ⟨fun hq => absurd hq hp, hleast⟩⟩

/-- A search stops at a first entry that meets the condition. -/
theorem FindsFirst.here {p : Nat × Record} {m : Sparse Record} {P : Nat → Record → Prop}
    (hm : (p :: m).Pairwise fun a b => a.1 < b.1) (hp : P p.1 p.2) : FindsFirst (p :: m) P (some p.1) :=
  ⟨⟨p.2, List.mem_cons_self, hp⟩, List.forall_mem_cons.2
    ⟨fun _ => Nat.le_refl _, fun q hq _ => Nat.le_of_lt ((List.pairwise_cons.1 hm).1 q hq)⟩⟩

theorem rising_pairwise {m : Sparse Record} (h : m.wf = true) : m.Pairwise fun a b => a.1 < b.1 :=
  List.pairwise_map.1 (Sparse.pairwise_indexes m h).1

theorem findsFirst_firstWith (bad : Record → Bool) : ∀ {m : Sparse Record}, (m.Pairwise fun a b => a.1 < b.1) →
    FindsFirst m (fun _ r => bad r = true) (m.firstWith bad)
  | [], _ => fun p hp => absurd hp List.not_mem_nil
  | p :: m, hm => by
    rw [Sparse.firstWith]
    cases hb : bad p.2 with
    | true =>
      rw [List.find?_cons_of_pos (p := fun q : Nat × Record => bad q.2) hb]
      exact FindsFirst.here hm hb
    | false =>
      rw [List.find?_cons_of_neg (p := fun q : Nat × Record => bad q.2) (by simp [hb])]
      exact FindsFirst.skip (by simp [hb]) (findsFirst_firstWith bad (List.pairwise_cons.1 hm).2)

/-- An entry whose key is known, or that an entry of lower index has. -/
def Twin (key : Record → Nat × Nat) (known : List (Nat × Nat)) (m : Sparse Record) (i : Nat) (r : Record) : Prop :=
  key r ∈ known ∨ ∃ p ∈ m, p.1 < i ∧ key p.2 = key r

theorem findsFirst_firstTwin (key : Record → Nat × Nat) : ∀ {m : Sparse Record} {known : List (Nat × Nat)},
    (m.Pairwise fun a b => a.1 < b.1) → FindsFirst m (Twin key known m) (firstTwin key known m)
  | [], _, _ => fun p hp => absurd hp List.not_mem_nil
  | (i, r) :: m, known, hm => by
    obtain ⟨hfirst, hrest⟩ := List.pairwise_cons.1 hm
    unfold firstTwin
    by_cases hk : key r ∈ known
    · rw [if_pos (by simpa using hk)]
      exact FindsFirst.here hm (.inl hk)
    · rw [if_neg (by simpa using hk)]
      refine FindsFirst.skip ?_ ((findsFirst_firstTwin key (known := key r :: known) hrest).congr fun p hp => ?_)
      · rintro (h | ⟨p, hp, hlt, -⟩)
        · exact hk h
        · rcases List.mem_cons.1 hp with rfl | hp
          · exact Nat.lt_irrefl _ hlt
          · exact Nat.lt_asymm hlt (hfirst p hp)
      · have below := hfirst p hp
        constructor
        · rintro (h | ⟨q, hq, hlt, he⟩)
          · rcases List.mem_cons.1 h with he | h
            · exact .inr ⟨(i, r), List.mem_cons_self, below, he.symm⟩
            · exact .inl h
          · exact .inr ⟨q, List.mem_cons_of_mem _ hq, hlt, he⟩
        · rintro (h | ⟨q, hq, hlt, he⟩)
          · exact .inl (List.mem_cons_of_mem _ h)
          · rcases List.mem_cons.1 hq with rfl | hq
            · exact .inl (he ▸ List.mem_cons_self)
            · exact .inr ⟨q, hq, hlt, he⟩

/-- An association that is not above the nearest of lower index. -/
def Unordered (m : Sparse Record) (i : Nat) (r : Record) : Prop :=
  ∃ p ∈ m, p.1 < i ∧ (∀ x ∈ m, p.1 < x.1 → ¬x.1 < i) ∧ r.association.above p.2.association = false

theorem not_unordered_first {p : Nat × Record} {m : Sparse Record} (hm : (p :: m).Pairwise fun a b => a.1 < b.1) :
    ¬Unordered (p :: m) p.1 p.2 := by
  rintro ⟨q, hq, hlt, -⟩
  rcases List.mem_cons.1 hq with rfl | hq
  · exact Nat.lt_irrefl _ hlt
  · exact Nat.lt_asymm hlt ((List.pairwise_cons.1 hm).1 q hq)

theorem findsFirst_firstUnordered : ∀ {m : Sparse Record}, (m.Pairwise fun a b => a.1 < b.1) →
    FindsFirst m (Unordered m) (firstUnordered m)
  | [], _ => fun p hp => absurd hp List.not_mem_nil
  | [p], hm => List.forall_mem_cons.2 ⟨not_unordered_first hm, fun q hq => absurd hq List.not_mem_nil⟩
  | p :: q :: m, hm => by
    obtain ⟨hp, hrest⟩ := List.pairwise_cons.1 hm
    have hpq := hp q List.mem_cons_self
    have hq := (List.pairwise_cons.1 hrest).1
    have between : ∀ x ∈ p :: q :: m, p.1 < x.1 → ¬x.1 < q.1 := by
      intro x hx hlt hxq
      rcases List.mem_cons.1 hx with rfl | hx
      · exact Nat.lt_irrefl _ hlt
      · rcases List.mem_cons.1 hx with rfl | hx
        · exact Nat.lt_irrefl _ hxq
        · exact Nat.lt_asymm hxq (hq x hx)
    rw [firstUnordered]
    refine FindsFirst.skip (not_unordered_first hm) ?_
    cases ha : q.2.association.above p.2.association with
    | false =>
      rw [if_neg Bool.false_ne_true]
      exact FindsFirst.here hrest ⟨p, List.mem_cons_self, hpq, between, ha⟩
    | true =>
      rw [if_pos rfl]
      refine (findsFirst_firstUnordered hrest).congr fun x hx => ?_
      constructor
      · rintro ⟨y, hy, hlt, hnear, hab⟩
        refine ⟨y, List.mem_cons_of_mem _ hy, hlt, List.forall_mem_cons.2 ⟨fun h => ?_, hnear⟩, hab⟩
        exact absurd h (Nat.lt_asymm (hp y hy))
      · rintro ⟨y, hy, hlt, hnear, hab⟩
        have hnear' := (List.forall_mem_cons.1 hnear).2
        rcases List.mem_cons.1 hy with rfl | hy
        · have hxq : x = q := by
            rcases List.mem_cons.1 hx with h | h
            · exact h
            · exact absurd (hq x h) (hnear' q List.mem_cons_self hpq)
          subst hxq
          exact absurd (hab.symm.trans ha) Bool.false_ne_true
        · exact ⟨y, hy, hlt, hnear', hab⟩

theorem findsFirst_firstCrowded (count : Nat → Nat) {t : Tables} (h : t.segments.wf = true) :
    FindsFirst t.segments (fun i _ => 16 < count i) (firstCrowded t count) := by
  have found : firstCrowded t count = (t.segments.find? fun p => decide (16 < count p.1)).map Prod.fst := List.find?_map ..
  rw [found]
  have rising := rising_pairwise h
  generalize t.segments = m at rising
  induction m with
  | nil => exact fun p hp => absurd hp List.not_mem_nil
  | cons p m ih =>
    by_cases hc : 16 < count p.1
    · rw [List.find?_cons_of_pos (by simpa using hc)]
      exact FindsFirst.here rising hc
    · rw [List.find?_cons_of_neg (by simpa using hc)]
      exact FindsFirst.skip hc (ih (List.pairwise_cons.1 rising).2)

/-! ### The passes, in their order (03 R48) -/

theorem fieldBad_segment (r : Record) : (!r.segment.inRange) = true ↔ FieldBad .segment r := by
  unfold FieldBad
  simp only [SegmentRecord.inRange, Bool.not_eq_true', Bool.and_eq_false_iff, decide_eq_false_iff_not]
  simp only [Config.zones]
  omega

theorem fieldBad_valve (r : Record) : (!r.valve.inRange) = true ↔ FieldBad .valve r := by
  unfold FieldBad
  simp only [ValveRecord.inRange, Bool.not_eq_true', Bool.and_eq_false_iff, Bool.or_eq_false_iff, decide_eq_false_iff_not,
    beq_eq_false_iff_ne, ne_eq]
  simp only [Config.segments, Config.none16, Config.stations]
  omega

theorem fieldBad_sensor (r : Record) : (!r.sensor.inRange) = true ↔ FieldBad .sensor r := by
  unfold FieldBad
  simp only [SensorRecord.inRange, Bool.not_eq_true', Bool.and_eq_false_iff, decide_eq_false_iff_not]
  simp only [Config.segments, Config.stations]
  omega

theorem fieldBad_association (r : Record) : (!r.association.inRange) = true ↔ FieldBad .association r := by
  unfold FieldBad
  simp only [AssociationRecord.inRange, Bool.not_eq_true', Bool.and_eq_false_iff, decide_eq_false_iff_not]
  simp only [Config.segments]
  omega

/-- The entry that a pass finds in a table. -/
def passIndex (t : Tables) : Nat → TableName → Option Nat
  | 1, .segment => t.segments.firstWith fun r => !r.segment.inRange
  | 1, .valve => t.valves.firstWith fun r => !r.valve.inRange
  | 1, .sensor => t.sensors.firstWith fun r => !r.sensor.inRange
  | 1, .association => t.associations.firstWith fun r => !r.association.inRange
  | 2, .valve => t.valves.firstWith fun r => r.valve.sideA == r.valve.sideB || !t.segments.has r.valve.sideA
      || (r.valve.sideB != Config.none16 && !t.segments.has r.valve.sideB)
  | 3, .sensor => t.sensors.firstWith fun r => !t.segments.has r.sensor.home
  | 3, .association => t.associations.firstWith fun r =>
      !t.sensors.has r.association.sensor || !t.segments.has r.association.segment
  | 4, .valve => firstTwin (fun r => (r.valve.station, r.valve.channel)) [] t.valves
  | 4, .sensor => firstTwin (fun r => (r.sensor.station, r.sensor.channel)) [] t.sensors
  | 4, .association => firstUnordered t.associations
  | 5, .segment => firstCrowded t fun g => (t.boundary g).length
  | 6, .segment => firstCrowded t fun g => (t.associationList g).length
  | _, _ => none

/-- The passes and their tables, in the order of their reports. -/
def passes : List (Nat × TableName) :=
  [(1, .segment), (1, .valve), (1, .sensor), (1, .association), (2, .valve), (3, .sensor), (3, .association), (4, .valve),
    (4, .sensor), (4, .association), (5, .segment), (6, .segment)]

/-- What a pass reports of a table. -/
def passFinding (t : Tables) (x : Nat × TableName) : Option Finding :=
  (passIndex t x.1 x.2).map fun i => (passResult x.1, some (x.2, i))

theorem compileCheck_eq (t : Tables) : compileCheck t = (passes.findSome? (passFinding t)).or
    (if t.segments.any fun p => p.2.segment.source then none else some (CompileResult.noSource, none)) := by
  have listed : compileCheck t = (passes.map (passFinding t)
      ++ [if t.segments.any fun p => p.2.segment.source then none else some (CompileResult.noSource, none)]).findSome? id := by
    unfold compileCheck
    rfl
  rw [listed, List.findSome?_append, List.findSome?_map, Function.id_comp, List.findSome?_singleton]
  rfl

theorem twin_iff {m : Sparse Record} (hm : m.wf = true) (key : Record → Nat × Nat) (i : Nat) (r : Record) :
    Twin key [] m i r ↔ ∃ j q, j < i ∧ m.at? j = some q ∧ key q = key r := by
  simp only [Twin, List.not_mem_nil, false_or, Prod.exists, Sparse.mem_iff_at?_of_wf hm]
  exact exists_congr fun j => exists_congr fun q => ⟨fun ⟨h, hlt, he⟩ => ⟨hlt, h, he⟩, fun ⟨hlt, h, he⟩ => ⟨h, hlt, he⟩⟩

theorem above_eq_false (a b : AssociationRecord) :
    a.above b = false ↔ ¬(b.sensor < a.sensor ∨ (b.sensor = a.sensor ∧ b.segment < a.segment)) := by
  simp only [AssociationRecord.above, Bool.or_eq_false_iff, Bool.and_eq_false_iff, decide_eq_false_iff_not, beq_eq_false_iff_ne]
  omega

theorem unordered_iff {m : Sparse Record} (hm : m.wf = true) (i : Nat) (r : Record) :
    Unordered m i r ↔ ∃ j q, j < i ∧ m.at? j = some q ∧ (∀ k, j < k → k < i → m.at? k = none)
      ∧ ¬(q.association.sensor < r.association.sensor
        ∨ (q.association.sensor = r.association.sensor ∧ q.association.segment < r.association.segment)) := by
  simp only [Unordered, Prod.exists, Prod.forall, Sparse.mem_iff_at?_of_wf hm, above_eq_false]
  refine exists_congr fun j => exists_congr fun q => ⟨fun ⟨h, hlt, hnear, ha⟩ => ⟨hlt, h, fun k hjk hki => ?_, ha⟩,
    fun ⟨hlt, h, hnear, ha⟩ => ⟨h, hlt, fun k x hx hjk hki => ?_, ha⟩⟩
  · exact Option.eq_none_iff_forall_ne_some.2 fun x hx => hnear k x hx hjk hki
  · exact nomatch hx.symm.trans (hnear k hjk hki)

theorem crowded_valves (t : Tables) (g : Nat) : 16 < (t.boundary g).length ↔
    Crowded t.valves fun q => q.valve.sideA == g || q.valve.sideB == g := by rw [Tables.boundary, List.length_map]; rfl

theorem crowded_associations (t : Tables) (g : Nat) : 16 < (t.associationList g).length ↔
    Crowded t.associations fun q => q.association.segment == g := by rw [Tables.associationList, List.length_map]; rfl

/-- Each pass finds the lowest entry of its table that meets its condition. -/
theorem passIndex_findsFirst {t : Tables} (ht : TablesCanonical t) : ∀ (n : Nat) (a : TableName),
    FindsFirst (t.of a) (PassFinds t n a) (passIndex t n a) := by
  obtain ⟨hsegments, hvalves, hsensors, hassociations⟩ := ht
  have segments := rising_pairwise hsegments
  have valves := rising_pairwise hvalves
  have sensors := rising_pairwise hsensors
  have associations := rising_pairwise hassociations
  intro n a
  match n, a with
  | 1, .segment => exact (findsFirst_firstWith (fun r => !r.segment.inRange) segments).congr fun p _ => fieldBad_segment p.2
  | 1, .valve => exact (findsFirst_firstWith (fun r => !r.valve.inRange) valves).congr fun p _ => fieldBad_valve p.2
  | 1, .sensor => exact (findsFirst_firstWith (fun r => !r.sensor.inRange) sensors).congr fun p _ => fieldBad_sensor p.2
  | 1, .association => exact (findsFirst_firstWith (fun r => !r.association.inRange) associations).congr fun p _ => fieldBad_association p.2
  | 2, .valve =>
    refine (findsFirst_firstWith (fun r => r.valve.sideA == r.valve.sideB || !t.segments.has r.valve.sideA
      || (r.valve.sideB != Config.none16 && !t.segments.has r.valve.sideB)) valves).congr fun p _ => ?_
    simp only [PassFinds, Bool.or_eq_true, beq_iff_eq, Bool.and_eq_true, bne_iff_ne, has_eq_false_iff, or_assoc, Config.none16]
  | 3, .sensor => exact (findsFirst_firstWith (fun r => !t.segments.has r.sensor.home) sensors).congr fun p _ => has_eq_false_iff
  | 3, .association =>
    refine (findsFirst_firstWith (fun r => !t.sensors.has r.association.sensor || !t.segments.has r.association.segment)
      associations).congr fun p _ => ?_
    simp only [PassFinds, Bool.or_eq_true, has_eq_false_iff]
  | 4, .valve =>
    refine (findsFirst_firstTwin _ valves).congr fun p _ => (twin_iff hvalves _ p.1 p.2).trans ?_
    simp only [PassFinds, Prod.mk.injEq]
  | 4, .sensor =>
    refine (findsFirst_firstTwin _ sensors).congr fun p _ => (twin_iff hsensors _ p.1 p.2).trans ?_
    simp only [PassFinds, Prod.mk.injEq]
  | 4, .association => exact (findsFirst_firstUnordered associations).congr fun p _ => unordered_iff hassociations p.1 p.2
  | 5, .segment => exact (findsFirst_firstCrowded _ hsegments).congr fun p _ => crowded_valves t p.1
  | 6, .segment => exact (findsFirst_firstCrowded _ hsegments).congr fun p _ => crowded_associations t p.1
  | 0, _ => exact fun p _ h => h
  | 2, .segment | 2, .sensor | 2, .association => exact fun p _ h => h
  | 3, .segment | 3, .valve => exact fun p _ h => h
  | 4, .segment => exact fun p _ h => h
  | 5, .valve | 5, .sensor | 5, .association => exact fun p _ h => h
  | 6, .valve | 6, .sensor | 6, .association => exact fun p _ h => h
  | k + 7, _ => exact fun p _ h => h

theorem mem_passes {t : Tables} {n i : Nat} {a : TableName} {r : Record} (h : PassFinds t n a i r) : (n, a) ∈ passes := by
  match n, a with
  | 1, .segment | 1, .valve | 1, .sensor | 1, .association => decide
  | 2, .valve | 3, .sensor | 3, .association => decide
  | 4, .valve | 4, .sensor | 4, .association => decide
  | 5, .segment | 6, .segment => decide
  | 0, _ => exact h.elim
  | 2, .segment | 2, .sensor | 2, .association => exact h.elim
  | 3, .segment | 3, .valve => exact h.elim
  | 4, .segment => exact h.elim
  | 5, .valve | 5, .sensor | 5, .association => exact h.elim
  | 6, .valve | 6, .sensor | 6, .association => exact h.elim
  | k + 7, _ => exact h.elim

/-- One pass and table come before another. -/
def PassBefore (x y : Nat × TableName) : Prop := x.1 < y.1 ∨ (x.1 = y.1 ∧ x.2.code < y.2.code)

theorem passes_ordered : passes.Pairwise PassBefore := by
  unfold PassBefore
  decide

theorem wf_of_canonical {t : Tables} (ht : TablesCanonical t) (a : TableName) : (t.of a).wf = true := by
  obtain ⟨hsegments, hvalves, hsensors, hassociations⟩ := ht
  cases a
  · exact hsegments
  · exact hvalves
  · exact hsensors
  · exact hassociations

/-- The first condition found, by pass, table and index, is the one reported. -/
theorem compileCheck_first {t : Tables} (ht : TablesCanonical t) {n i : Nat} {a : TableName} {r : Record}
    (hr : (t.of a).at? i = some r) (hp : PassFinds t n a i r)
    (hfirst : ∀ m b j q, (t.of b).at? j = some q → PassFinds t m b j q → NoLater n a i m b j) :
    compileCheck t = some (passResult n, some (a, i)) := by
  have found (m : Nat) (b : TableName) := passIndex_findsFirst ht m b
  obtain ⟨pre, post, hsplit⟩ := List.append_of_mem (mem_passes hp)
  have ordered := passes_ordered
  rw [hsplit, List.pairwise_append] at ordered
  have earlier : pre.findSome? (passFinding t) = none := by
    refine List.findSome?_eq_none_iff.2 fun x hx => ?_
    obtain ⟨m, b⟩ := x
    have before := ordered.2.2 _ hx (n, a) List.mem_cons_self
    have spec := found m b
    unfold passFinding
    cases hindex : passIndex t m b with
    | none => rfl
    | some j =>
      rw [hindex] at spec
      obtain ⟨⟨q, hq, hfinds⟩, -⟩ := spec
      have later := hfirst m b j q ((Sparse.mem_iff_at?_of_wf (wf_of_canonical ht b) j q).1 hq) hfinds
      unfold PassBefore at before
      unfold NoLater at later
      have same (h : a = b) : a.code = b.code := congrArg _ h
      dsimp only at before
      exfalso
      rcases later with h | ⟨h, h' | ⟨h', -⟩⟩
      · omega
      · omega
      · have := same h'
        omega
  have here : passIndex t n a = some i := by
    have spec := found n a
    have hmem := (Sparse.mem_iff_at?_of_wf (wf_of_canonical ht a) i r).2 hr
    cases hindex : passIndex t n a with
    | none =>
      rw [hindex] at spec
      exact absurd hp (spec _ hmem)
    | some j =>
      rw [hindex] at spec
      obtain ⟨⟨q, hq, hfinds⟩, hleast⟩ := spec
      have later := hfirst n a j q ((Sparse.mem_iff_at?_of_wf (wf_of_canonical ht a) j q).1 hq) hfinds
      have := hleast _ hmem hp
      unfold NoLater at later
      dsimp only at this
      congr 1
      omega
  rw [compileCheck_eq, hsplit, List.findSome?_append, earlier, Option.none_or, List.findSome?_cons, passFinding, here]
  rfl

/-- With no condition found, what is left is whether there is a source. -/
theorem compileCheck_none {t : Tables} (ht : TablesCanonical t)
    (hnone : ∀ n a i r, (t.of a).at? i = some r → ¬PassFinds t n a i r) : compileCheck t =
      if t.segments.any fun p => p.2.segment.source then none else some (CompileResult.noSource, none) := by
  have nothing : passes.findSome? (passFinding t) = none := by
    refine List.findSome?_eq_none_iff.2 fun x _ => ?_
    have spec := passIndex_findsFirst ht x.1 x.2
    unfold passFinding
    cases hindex : passIndex t x.1 x.2 with
    | none => rfl
    | some j =>
      rw [hindex] at spec
      obtain ⟨⟨q, hq, hfinds⟩, -⟩ := spec
      exact absurd hfinds (hnone x.1 x.2 j q ((Sparse.mem_iff_at?_of_wf (wf_of_canonical ht x.2) j q).1 hq))
  rw [compileCheck_eq, nothing, Option.none_or]

/-! ### The end of a compile with an error (03 R48-R50) -/

section
variable {w : Option Unwritten} {c : Core}

theorem compileErrorEnd_idle (h : c.ts.compile ≠ .compiling false) : compileErrorEnd w c = c := if_neg h

theorem compileErrorEnd_nothing (h : compileCheck c.ts.shadow = none) : compileErrorEnd none c = c := by
  unfold compileErrorEnd
  rw [h]
  exact ite_self c

theorem compileErrorEnd_found {r : CompileResult} {e : Option (TableName × Nat)} (hc : c.ts.compile = .compiling false)
    (h : compileCheck c.ts.shadow = some (r, e)) : compileErrorEnd w c = compileDone r e 0 (compileEnds r c) := by
  unfold compileErrorEnd
  rw [if_pos hc, h]

theorem compileErrorEnd_entry {t : TableName} {i : Nat} (hc : c.ts.compile = .compiling false)
    (h : compileCheck c.ts.shadow = none) :
    compileErrorEnd (some (.entry t i)) c = compileDone .writeFailed (some (t, i)) 0 (compileEnds .writeFailed c) := by
  unfold compileErrorEnd
  rw [if_pos hc, h]

theorem compileErrorEnd_indexRecord (hc : c.ts.compile = .compiling false) (h : compileCheck c.ts.shadow = none) :
    compileErrorEnd (some .indexRecord) c = compileDone .writeFailed none 0 (compileEnds .writeFailed c) := by
  unfold compileErrorEnd
  rw [if_pos hc, h]

end

end Sys2Proof.Machine

namespace Sys2Proof.Proofs

open Sys2Proof Sys2Proof.Machine Sys2Proof.Claims

/-- Settles O34: the event by what the check finds, the records by their bytes, the check by the entry that each pass finds. -/
theorem compileErrorsAreReported : Obligations.CompileErrorsAreReported := by
  have row (w : Option Unwritten) (s : State) :
      exec (.compileErrorEnd w) s = .next (coreEvent (fun _ c => compileErrorEnd w c) s) := rfl
  refine ⟨fun w s h => ends_of (row w s) (compileErrorEnd_idle h), fun s h => ends_of (row none s) (compileErrorEnd_nothing h),
    fun w s result entry hc herror => ?reported, fun bs h => ?bytes,
    fun bs => ⟨Record.ofBytes_none, recordsOf_short⟩, fun t ht => ⟨fun n a i r hr hp hfirst => compileCheck_first ht hr hp hfirst,
      fun hnone => ⟨fun hsource => ?_, fun i r hr hs => ?_⟩⟩⟩
  case reported =>
    have ends : compileErrorEnd w s.core = compileDone result entry 0 (compileEnds result s.core) := by
      rcases herror with h | ⟨h, rfl, ⟨rfl, rfl⟩ | ⟨t, i, rfl, rfl⟩⟩
      · exact compileErrorEnd_found hc h
      · exact compileErrorEnd_indexRecord hc h
      · exact compileErrorEnd_entry hc h
    cases entry with
    | none => exact ⟨65535, 65535, 0, ends_of (row w s) ends, fun _ => ⟨rfl, rfl, rfl⟩, nofun, nofun, nofun, nofun⟩
    | some x =>
      obtain ⟨t, i⟩ := x
      refine ⟨if t = .segment then 65535 else i, if t = .segment then i else 65535, t.code,
        ends_of (row w s) (ends.trans (compileDone_named ..)), nofun, ?_, ?_, ?_, ?_⟩
      all_goals
        rintro j ⟨⟩
        exact ⟨rfl, rfl, rfl⟩
  case bytes =>
    obtain ⟨r, rfl⟩ := exists_record_bytes h
    exact ⟨r, rfl, rfl, recordReads_bytes r, recordsOf_bytes_append r⟩
  · rw [compileCheck_none ht hnone, if_neg]
    rw [Bool.not_eq_true, List.any_eq_false]
    intro p hp
    rw [hsource p.1 p.2 ((Sparse.mem_iff_at?_of_wf ht.1 p.1 p.2).1 hp)]
    exact Bool.false_ne_true
  · rw [compileCheck_none ht hnone, if_pos]
    exact List.any_eq_true.2 ⟨(i, r), (Sparse.mem_iff_at?_of_wf ht.1 i r).2 hr, hs⟩

end Sys2Proof.Proofs
end

section
/-! The Locate Unit (O47): the choice at a window's expiry, and the parts of a recomputation. -/

namespace Sys2Proof.Machine

open Sys2Proof.Claims

/-! ### What a seen entry is (02 R28) -/

theorem seen_value {nv : Nv} {t : TableName} {i : Nat} {c : Core} {r : Record} (h : seen nv t i c = .value r) :
    c.ts.valid = true ∧ (nv.active.tables.of t).at? i = some r := by
  unfold seen at h
  split at h
  · next hv =>
    split at h
    · exact nomatch h
    · next q hq =>
      split at h
      · exact nomatch h
      · exact ⟨hv, hq.trans (congrArg some (Seen.value.inj h))⟩
  · exact nomatch h

theorem mem_presentIn_of_seen {nv : Nv} {t : TableName} {i : Nat} {c : Core} {r : Record} (h : seen nv t i c = .value r) :
    i ∈ presentIn nv t c := by
  obtain ⟨hv, hr⟩ := seen_value h
  rw [presentIn, if_pos hv]
  exact List.mem_map.2 ⟨_, Sparse.mem_of_at? hr, rfl⟩

theorem pairwise_presentIn {nv : Nv} {t : TableName} (h : TablesCanonical nv.active.tables) (c : Core) :
    (presentIn nv t c).Pairwise (· < ·) := by
  unfold presentIn
  split
  · exact (Sparse.pairwise_indexes _ (wf_of_canonical h t)).1
  · exact .nil

/-! ### The candidates of a zone, and the best of them (05 R86) -/

theorem qualifies_value {nv : Nv} {g : Nat} {c : Core} {r : Record} (h : seen nv .segment g c = .value r) :
    qualifies nv g c = true ↔ indexPoisoned .segmentIndex g c = false ∧ covered g c = false ∧ r.segment.sMin ≤ scoreOf g c := by
  rw [qualifies, h]
  simp [and_assoc]

theorem inZone_value {nv : Nv} {z g : Nat} {c : Core} {r : Record} (h : seen nv .segment g c = .value r) :
    inZone nv z g c = true ↔ r.segment.zone = z := by
  rw [inZone, h]
  exact beq_iff_eq

theorem inZone_iff {nv : Nv} {z g : Nat} {c : Core} :
    inZone nv z g c = true ↔ ∃ r, seen nv .segment g c = .value r ∧ r.segment.zone = z := by
  cases h : seen nv .segment g c with
  | value r => simp [inZone_value h]
  | absent => simp [inZone, h]
  | poisoned => simp [inZone, h]

theorem mem_candidates {nv : Nv} {z g : Nat} {c : Core} : g ∈ candidates nv z c ↔ ∃ r, seen nv .segment g c = .value r
    ∧ r.segment.zone = z ∧ indexPoisoned .segmentIndex g c = false ∧ covered g c = false ∧ r.segment.sMin ≤ scoreOf g c := by
  rw [candidates, List.mem_filter, Bool.and_eq_true, inZone_iff]
  constructor
  · rintro ⟨-, ⟨r, hr, hz⟩, hq⟩
    exact ⟨r, hr, hz, (qualifies_value hr).1 hq⟩
  · rintro ⟨r, hr, hz, hq⟩
    exact ⟨mem_presentIn_of_seen hr, ⟨r, hr, hz⟩, (qualifies_value hr).2 hq⟩

theorem mem_of_bestOf {c : Core} {g : Nat} : ∀ {l : List Nat}, bestOf c l = some g → g ∈ l
  | [], h => nomatch h
  | x :: l, h => by
    rw [bestOf] at h
    split at h
    · exact Option.some.inj h ▸ List.mem_cons_self
    · next y hy =>
      split at h
      · exact List.mem_cons_of_mem _ (mem_of_bestOf (Option.some.inj h ▸ hy))
      · exact Option.some.inj h ▸ List.mem_cons_self

/-- The segment of highest score, and of those the lowest, is chosen. -/
theorem bestOf_eq {c : Core} {g : Nat} : ∀ {l : List Nat}, l.Pairwise (· < ·) → g ∈ l → (∀ h ∈ l, scoreOf h c ≤ scoreOf g c) →
    (∀ h ∈ l, scoreOf h c = scoreOf g c → g ≤ h) → bestOf c l = some g
  | [], _, hg, _, _ => absurd hg List.not_mem_nil
  | x :: l, hl, hg, hbest, hlow => by
    obtain ⟨hx, hrest⟩ := List.pairwise_cons.1 hl
    rw [bestOf]
    rcases List.mem_cons.1 hg with rfl | hg
    · cases hb : bestOf c l with
      | none => rfl
      | some h => exact if_neg (Nat.not_lt.2 (hbest h (List.mem_cons_of_mem _ (mem_of_bestOf hb))))
    · have best := bestOf_eq hrest hg (fun h hh => hbest h (List.mem_cons_of_mem _ hh))
        fun h hh => hlow h (List.mem_cons_of_mem _ hh)
      have below := hx g hg
      have := hbest x List.mem_cons_self
      have := hlow x List.mem_cons_self
      rw [best]
      exact if_pos (by omega)

/-! ### The choice (05 R86-R88) -/

section
variable {nv : Nv} {z : Nat} {b c : Core}
  (hc : c = luUpdate nv ((presentIn nv .segment b).foldl (fun c g => touchEntry nv .segment g c) b))
include hc

theorem chooseIn_empty (h : candidates nv z c = []) :
    chooseIn nv z b = closeWindow nv z (notify .locateEmpty 0 Config.none16 Config.none16 z c) := by
  rw [chooseIn, ← hc, h]
  rfl

theorem chooseIn_best {g : Nat} {r : Record} (h : bestOf c (candidates nv z c) = some g) (hr : seen nv .segment g c = .value r) :
    chooseIn nv z b = if c.ic.mode = .halt then closeWindow nv z (notify .burstSeen 0 Config.none16 g (scoreOf g c / 256) c)
      else if freeEntries c = [] then notify .tableFull 0 Config.none16 g z (setWindow z .deferred c)
      else closeWindow nv z (raiseIncident nv g r.segment .detected (scoreOf g c) c) := by
  rw [chooseIn, ← hc, h]
  dsimp only
  rw [hr]

theorem chooseIn_mode : c.ic.mode = b.ic.mode := by
  have read := (LocateOnly.foldl (fun c g => touchEntry_only nv .segment g c) (presentIn nv .segment b) b).trans (luUpdate_only nv _)
  rw [hc, read.ic]

end

/-! ### Reruns (05 R89) -/

/-- Two rising lists with the same members are the same list. -/
theorem eq_of_rising {xs ys : List Nat} (hx : xs.Pairwise (· < ·)) (hy : ys.Pairwise (· < ·)) (h : ∀ z, z ∈ xs ↔ z ∈ ys) : xs = ys :=
  List.Perm.eq_of_pairwise (fun _ _ _ _ hab hba => absurd hba (Nat.lt_asymm hab)) hx hy
    ((List.perm_ext_iff_of_nodup (hx.imp Nat.ne_of_lt) (hy.imp Nat.ne_of_lt)).2 h)

theorem mem_deferred {c : Core} (h : c.lu.windows.wfD .closed = true) (z : Nat) :
    z ∈ (c.lu.windows.filter fun p => p.2 == .deferred).map Prod.fst ↔ windowOf z c = .deferred := by
  rw [Sparse.mem_filter_indexes (Bool.and_eq_true_iff.1 h).1, windowOf, Sparse.atD]
  cases c.lu.windows.at? z with
  | none => simp
  | some w => simp

/-! ### Tests, scores and reads (05 R80, R81, R84) -/

section
variable {nv : Nv} {g : Nat} {c d : Core} {r : Record}

theorem testSegment_unseen (hd : d = touchEntry nv .segment g c) (h : ∀ r, seen nv .segment g d ≠ .value r) :
    testSegment nv c g = d := by
  subst hd
  unfold testSegment
  dsimp only
  split
  · next r hr => exact absurd hr (h r)
  · rfl
  · rfl

theorem testSegment_value (hd : d = touchEntry nv .segment g c) (h : seen nv .segment g d = .value r) : testSegment nv c g =
    if windowOf r.segment.zone d = .closed ∧ qualifies nv g d = true then
      setWindow r.segment.zone (.opened (nv.settings.locateWindow * 1000)) d
    else d := by
  subst hd
  rw [testSegment, h]

theorem scoreNow_none (h : (∀ r, seen nv .segment g c ≠ .value r) ∨ indexPoisoned .segmentIndex g c = true) :
    scoreNow nv g c = 0 := by
  unfold scoreNow
  split
  · next r hr =>
    rcases h with h | h
    · exact absurd hr (h r)
    · exact if_pos h
  · rfl
  · rfl

theorem scoreNow_value (h : seen nv .segment g c = .value r) (hi : indexPoisoned .segmentIndex g c = false) :
    scoreNow nv g c = min 65535 ((nv.active.tables.associationList g).map fun a => term nv a c).sum := by
  rw [scoreNow, h]
  exact if_neg (by simp [hi])

variable {a : Nat}

theorem term_unseen (h : ∀ r, seen nv .association a c ≠ .value r) : term nv a c = 0 := by
  unfold term
  split
  · next r hr => exact absurd hr (h r)
  · rfl
  · rfl

theorem term_value (h : seen nv .association a c = .value r) : term nv a c =
    if (channelOf r.association.sensor c).state = .tripped ∧ seen nv .sensor r.association.sensor c ≠ .poisoned
        ∧ indexPoisoned .sensorIndex r.association.sensor c = false then
      r.association.weight * min 1023 (channelOf r.association.sensor c).deviation
    else 0 := by
  rw [term, h]

theorem touchTerm_unseen (hd : d = touchEntry nv .association a c) (h : ∀ r, seen nv .association a d ≠ .value r) :
    touchTerm nv c a = d := by
  subst hd
  unfold touchTerm
  dsimp only
  split
  · next r hr => exact absurd hr (h r)
  · rfl
  · rfl

theorem touchTerm_value (hd : d = touchEntry nv .association a c) (h : seen nv .association a d = .value r) : touchTerm nv c a =
    if (channelOf r.association.sensor d).state = .tripped then touchEntry nv .sensor r.association.sensor d else d := by
  subst hd
  rw [touchTerm, h]

theorem touchSegment_eq (hd : d = touchIndex nv .segmentIndex g (touchEntry nv .segment g c)) : touchSegment nv g c =
    if indexPoisoned .segmentIndex g d then d else (nv.active.tables.associationList g).foldl (touchTerm nv) d := by
  subst hd
  rfl

variable {i : Nat}

theorem touchRun_none (hd : d = touchIndex nv .sensorIndex i (touchEntry nv .sensor i c))
    (h : (∀ r, seen nv .sensor i d ≠ .value r) ∨ indexPoisoned .sensorIndex i d = true) : touchRun nv i c = d := by
  subst hd
  unfold touchRun
  dsimp only
  split
  · next r hr =>
    rcases h with h | h
    · exact absurd hr (h r)
    · exact if_pos h
  · rfl
  · rfl

theorem touchRun_value {e : Core} (hd : d = touchIndex nv .sensorIndex i (touchEntry nv .sensor i c))
    (h : seen nv .sensor i d = .value r) (hi : indexPoisoned .sensorIndex i d = false)
    (he : e = (nv.active.tables.run i).foldl (fun c p => touchEntry nv .association p.1 c) d) : touchRun nv i c =
      markDirty (((nv.active.tables.run i).filter fun p => !poisonedAt e ⟨.association, p.1⟩).map fun p =>
        p.2.association.segment) e := by
  subst hd
  rw [touchRun, h]
  dsimp only
  rw [if_neg (by simp [hi]), ← he]

end

/-! ### Reads leave the scores (05 R81) -/

theorem scores_tableError (p : Place) (k : Nat) (c : Core) : (tableError p k c).lu = c.lu := by
  unfold tableError notifyTableError
  dsimp only
  repeat' split
  all_goals rfl

theorem scores_touchPlace (nv : Nv) (p : Place) (c : Core) : (touchPlace nv p c).lu.scores = c.lu.scores := by
  unfold touchPlace
  split
  · rfl
  · rfl
  · rfl
  · dsimp only
    rw [scores_tableError]
    rfl
  · rw [scores_tableError]
    rfl

theorem scores_touchEntry (nv : Nv) (t : TableName) (i : Nat) (c : Core) : (touchEntry nv t i c).lu.scores = c.lu.scores := by
  unfold touchEntry
  split
  · exact scores_touchPlace ..
  · rfl

theorem scores_touchIndex (nv : Nv) (a : Area) (i : Nat) (c : Core) : (touchIndex nv a i c).lu.scores = c.lu.scores := by
  unfold touchIndex
  split
  · exact scores_touchPlace ..
  · rfl

theorem scores_touchTerm (nv : Nv) (c : Core) (a : Nat) : (touchTerm nv c a).lu.scores = c.lu.scores := by
  unfold touchTerm
  dsimp only
  split
  · split
    · rw [scores_touchEntry, scores_touchEntry]
    · exact scores_touchEntry ..
  · exact scores_touchEntry ..
  · exact scores_touchEntry ..

theorem scores_touchTerms (nv : Nv) : ∀ (as : List Nat) (c : Core), (as.foldl (touchTerm nv) c).lu.scores = c.lu.scores
  | [], _ => rfl
  | a :: as, c => (scores_touchTerms nv as _).trans (scores_touchTerm nv c a)

theorem scores_touchSegment (nv : Nv) (g : Nat) (c : Core) : (touchSegment nv g c).lu.scores = c.lu.scores := by
  have first : (touchIndex nv .segmentIndex g (touchEntry nv .segment g c)).lu.scores = c.lu.scores := by
    rw [scores_touchIndex, scores_touchEntry]
  rw [touchSegment_eq rfl]
  split
  · exact first
  · exact (scores_touchTerms nv _ _).trans first

theorem pairwise_run {t : Tables} (h : t.associations.wf = true) (i : Nat) : (t.run i).Pairwise fun p q => p.1 < q.1 := by
  unfold Tables.run
  split
  · exact .nil
  · exact List.pairwise_map.1 (Sparse.pairwise_filter h _)

theorem updateScores_dirty (nv : Nv) (n : Nat) {c : Core} (h : c.lu.dirty ≠ []) : updateScores nv (n + 1) c =
    updateScores nv n (c.lu.dirty.foldl (fun c g => testSegment nv (rescore nv g c) g) { c with lu := { c.lu with dirty := [] } }) := by
  rw [updateScores]
  cases hd : c.lu.dirty with
  | nil => exact absurd hd h
  | cons g gs => rfl

theorem updateScores_clean (nv : Nv) (n : Nat) {c : Core} (h : c.lu.dirty = []) : updateScores nv n c = c := by
  cases n with
  | zero => rfl
  | succ n => rw [updateScores, h]

end Sys2Proof.Machine

namespace Sys2Proof.Proofs

open Sys2Proof Sys2Proof.Machine Sys2Proof.Claims

/-- Settles O47: the choice by `bestOf_eq`, and each part of a recomputation by its own equations. -/
theorem windowExpiryChoosesASegment : Obligations.WindowExpiryChoosesASegment := by
  refine ⟨fun z s => ⟨fun h => ?_, fun h => ?_⟩, fun nv c zs hwf hzs hdeferred => ?reruns,
    fun nv z b c htables hc => ⟨chooseIn_empty hc, fun g => mem_candidates, fun g r hg hbest hlow hr => ?choice⟩,
    fun nv z c => ?zone, fun nv g c d hd => ⟨testSegment_unseen hd, fun r z hr hz => ?test⟩, fun nv g c d hd => ?rescore,
    fun nv g c => ⟨scoreNow_none, fun r hr hi => scoreNow_value hr hi⟩,
    fun nv a c => ⟨term_unseen, fun r i hr hi => ?term⟩,
    fun nv g c d hd => ⟨fun hi => (touchSegment_eq hd).trans (if_pos hi),
      fun hi => (touchSegment_eq hd).trans (if_neg (by simp [hi]))⟩,
    fun nv a c d hd => ⟨touchTerm_unseen hd, fun r i hr hi => ?reads⟩,
    fun nv i c d hd => ⟨touchRun_none hd, fun r e hr hi he => touchRun_value hd hr hi he⟩,
    fun t ht => ⟨fun g => ⟨Tables.mem_associationList ht g, Sparse.pairwise_filter ht _⟩,
      fun i => ⟨Tables.mem_run ht i, pairwise_run ht i⟩⟩,
    fun g gs c => ⟨markDirty_nil c, markDirty_listed, markDirty_new⟩,
    fun nv n c => ⟨rfl, updateScores_clean nv n, updateScores_dirty nv n⟩⟩
  · exact ends_of (f := fun nv c => windowExpiry nv z c) rfl (if_neg h)
  · exact ends_of (f := fun nv c => windowExpiry nv z c) rfl (if_pos h)
  case reruns =>
    have rising : ((c.lu.windows.filter fun p => p.2 == .deferred).map Prod.fst).Pairwise (· < ·) :=
      Sparse.pairwise_filter (Bool.and_eq_true_iff.1 hwf).1 _
    have same := eq_of_rising rising hzs fun z => (mem_deferred hwf z).trans (hdeferred z).symm
    rw [rerunDeferred, same]
    rfl
  case choice =>
    have sorted : (candidates nv z c).Pairwise (· < ·) := (pairwise_presentIn htables c).filter _
    have chosen := chooseIn_best hc (bestOf_eq sorted hg hbest hlow) hr
    rw [chooseIn_mode hc] at chosen
    exact ⟨fun hm => chosen.trans (if_pos hm), fun hm hf => chosen.trans ((if_neg hm).trans (if_pos hf)),
      fun hm hf => chosen.trans ((if_neg hm).trans (if_neg hf))⟩
  case zone =>
    rw [testZone]
    refine congrArg (fun f => ((presentIn nv .segment c).filter f).foldl (testSegment nv) c) (funext fun g => ?_)
    unfold inZone
    cases seen nv .segment g c <;> rfl
  case test =>
    subst hz
    refine ⟨fun hw hi hcov hs => ?_, fun h => ?_⟩
    · exact (testSegment_value hd hr).trans (if_pos ⟨hw, (qualifies_value hr).2 ⟨hi, hcov, hs⟩⟩)
    · refine (testSegment_value hd hr).trans (if_neg ?_)
      rintro ⟨hw, hq⟩
      obtain ⟨hi, hcov, hs⟩ := (qualifies_value hr).1 hq
      rcases h with h | h | h | h
      · exact h hw
      · exact Bool.false_ne_true (hi.symm.trans h)
      · exact Bool.false_ne_true (hcov.symm.trans h)
      · exact Nat.not_lt.2 hs h
  case rescore =>
    have scored : rescore nv g c = setScore g (scoreNow nv g d) d := by rw [hd]; rfl
    refine ⟨scored, ?_, fun h hh => ?_⟩
    · rw [scored, Moves.scoreOf_setScore, if_pos rfl]
    · rw [scored, Moves.scoreOf_setScore, if_neg hh, hd, scoreOf, scores_touchSegment]
      rfl
  case term =>
    subst hi
    refine ⟨fun h => ?_, fun ht hp hx => (term_value hr).trans (if_pos ⟨ht, hp, hx⟩)⟩
    refine (term_value hr).trans (if_neg ?_)
    rintro ⟨ht, hp, hx⟩
    rcases h with h | h | h
    · exact h ht
    · exact hp h
    · exact Bool.false_ne_true (hx.symm.trans h)
  case reads =>
    subst hi
    exact ⟨fun ht => (touchTerm_value hd hr).trans (if_pos ht), fun ht => (touchTerm_value hd hr).trans (if_neg ht)⟩

end Sys2Proof.Proofs
end

section
/-! The planning engine (O49, first part): expansion, new valves, the outage. -/

namespace Sys2Proof.Machine

open Sys2Proof.Claims

/-! ### Usable valves (07 R134) -/

theorem usable_iff (nv : Nv) (w : Snapshot) (v : Nat) (c : Core) : usable nv w v c = true ↔ (∃ r, seen nv .valve v c = .value r)
    ∧ w.persistent.has v = false ∧ w.dynamic.has v = false ∧ (w.valves.atD .reset v).status ≠ .failed ∧ v ∉ w.passing
    ∧ ∀ e ∈ w.closure, e.valve = v → ∀ cause, e.progress ≠ .faulted cause := by
  have faulted (e : ClosureEntry) : e.progress.isFaulted = false ↔ ∀ cause, e.progress ≠ .faulted cause := by
    cases e.progress <;> simp [Progress.isFaulted]
  cases h : seen nv .valve v c with
  | value r => simp [usable, h, faulted, and_assoc]
  | absent => simp [usable, h]
  | poisoned => simp [usable, h]

/-! ### The boundary of a set (07 R135; 02 R23) -/

theorem mem_boundaryList {nv : Nv} {g v far : Nat} {c : Core} (hwf : nv.active.tables.valves.wf = true) :
    (v, far) ∈ boundaryList nv g c ↔ c.ts.valid = true ∧ ∃ r, nv.active.tables.valves.at? v = some r
      ∧ ((r.valve.sideA = g ∧ r.valve.sideB = far) ∨ (r.valve.sideA ≠ g ∧ r.valve.sideB = g ∧ r.valve.sideA = far)) := by
  have sides (r : Record) : ((r.valve.sideA == g || r.valve.sideB == g) = true ∧ r.valve.across g = far) ↔
      ((r.valve.sideA = g ∧ r.valve.sideB = far) ∨ (r.valve.sideA ≠ g ∧ r.valve.sideB = g ∧ r.valve.sideA = far)) := by
    rw [Bool.or_eq_true, beq_iff_eq, beq_iff_eq, ValveRecord.across]
    by_cases hA : r.valve.sideA = g <;> simp [hA]
  unfold boundaryList
  cases c.ts.valid with
  | false => simp
  | true =>
    simp only [if_true, Tables.boundary, List.mem_map, List.mem_filter, Prod.exists, Prod.mk.injEq,
      Sparse.mem_iff_at?_of_wf hwf, true_and]
    constructor
    · rintro ⟨i, r, ⟨hr, hs⟩, rfl, ha⟩
      exact ⟨r, hr, (sides r).1 ⟨hs, ha⟩⟩
    · rintro ⟨r, hr, hs⟩
      obtain ⟨hs, ha⟩ := (sides r).2 hs
      exact ⟨v, r, ⟨hr, hs⟩, rfl, ha⟩

theorem mem_boundaryOf {nv : Nv} {s : List Nat} {c : Core} {v far : Nat} :
    (v, far) ∈ boundaryOf nv s c ↔ (∃ g ∈ s, (v, far) ∈ boundaryList nv g c) ∧ far ∉ s := by
  simp [boundaryOf, mem_sortBy, List.mem_filter, List.mem_flatMap]

theorem pairwise_boundaryOf (nv : Nv) (s : List Nat) (c : Core) : (boundaryOf nv s c).Pairwise fun a b => a.1 ≤ b.1 := by
  refine (pairwise_sortBy (fun a b d hab hbd => ?_) (fun a b hab => ?_) _).imp fun h => ?_
  · simp only [decide_eq_false_iff_not] at *
    omega
  · simp only [decide_eq_true_eq, decide_eq_false_iff_not] at *
    omega
  · simp only [decide_eq_false_iff_not] at h
    omega

/-! ### The passes of an expansion (07 R136) -/

section
variable {nv : Nv} {w : Snapshot} {k g v far : Nat} {gs s t : List Nat} {rest : List (Nat × Nat)} {x : StallCause} {c d e : Core}

theorem readIndexes_poisoned (hd : d = touchIndex nv .segmentIndex g c) (h : indexPoisoned .segmentIndex g d = true) :
    readIndexes nv (g :: gs) c = (false, d) := by
  subst hd
  exact if_pos h

theorem readIndexes_sound (hd : d = touchIndex nv .segmentIndex g c) (h : indexPoisoned .segmentIndex g d = false) :
    readIndexes nv (g :: gs) c = readIndexes nv gs d := by
  subst hd
  exact if_neg (by simp [h])

theorem expand_unreadable (h : readIndexes nv s c = (false, d)) : expand nv w (k + 1) s c = (.error .tableError, d) := by
  rw [expand, h]

theorem expand_fails (h : readIndexes nv s c = (true, d)) (he : examine nv w (boundaryOf nv s d) s d = (.error x, e)) :
    expand nv w (k + 1) s c = (.error x, e) := by
  rw [expand, h]
  dsimp only
  rw [he]

theorem expand_pass (h : readIndexes nv s c = (true, d)) (he : examine nv w (boundaryOf nv s d) s d = (.ok t, e)) :
    expand nv w (k + 1) s c = if t.length = s.length then (.ok s, e) else expand nv w k t e := by
  rw [expand, h]
  dsimp only
  rw [he]

section
variable (hd : d = touchEntry nv .valve v c)
include hd

theorem examine_passes (h : usable nv w v d = true ∨ far ∈ s) :
    examine nv w ((v, far) :: rest) s c = examine nv w rest s d := by
  subst hd
  rw [examine]
  split
  · rfl
  · next hu => exact if_pos (by simpa using h.resolve_left hu)

theorem examine_grows (hu : usable nv w v d = false) (hfar : far ∉ s) : examine nv w ((v, far) :: rest) s c =
    if far = Config.none16 then (.error .unbounded, d)
    else if segmentPoisoned nv far (touchIndex nv .segmentIndex far (touchEntry nv .segment far d)) then
      (.error .tableError, touchIndex nv .segmentIndex far (touchEntry nv .segment far d))
    else if w.limit < s.length + 1 then (.error .tooLarge, touchIndex nv .segmentIndex far (touchEntry nv .segment far d))
    else examine nv w rest (s ++ [far]) (touchIndex nv .segmentIndex far (touchEntry nv .segment far d)) := by
  subst hd
  rw [examine, if_neg (by simp [hu]), if_neg (by simpa using hfar)]

end

theorem segmentPoisoned_iff : segmentPoisoned nv g c = true ↔
    seen nv .segment g c = .poisoned ∨ indexPoisoned .segmentIndex g c = true := by
  rw [segmentPoisoned, Bool.or_eq_true, beq_iff_eq]

end

/-! ### New valves (07 R139) -/

theorem mem_newValves {nv : Nv} {w : Snapshot} {s : List Nat} {c : Core} {v : Nat} : v ∈ newValves nv w s c ↔
    (∃ far, (v, far) ∈ boundaryOf nv s c) ∧ ∀ e ∈ w.closure, e.valve ≠ v := by
  simp [newValves, mem_sortBy, List.mem_filter]

theorem pairwise_newValves (nv : Nv) (w : Snapshot) (s : List Nat) (c : Core) : (newValves nv w s c).Pairwise fun a b =>
    rankOr nv 0 a c < rankOr nv 0 b c ∨ (rankOr nv 0 a c = rankOr nv 0 b c ∧ a ≤ b) := by
  refine (pairwise_sortBy (fun a b d hab hbd => ?_) (fun a b hab => ?_) _).imp fun h => ?_
  · simp only [Bool.or_eq_false_iff, Bool.and_eq_false_iff, decide_eq_false_iff_not, beq_eq_false_iff_ne] at *
    omega
  · simp only [Bool.or_eq_true, Bool.and_eq_true, decide_eq_true_eq, beq_iff_eq, Bool.or_eq_false_iff, Bool.and_eq_false_iff,
      decide_eq_false_iff_not, beq_eq_false_iff_ne] at *
    omega
  · simp only [Bool.or_eq_false_iff, Bool.and_eq_false_iff, decide_eq_false_iff_not, beq_eq_false_iff_ne] at h
    omega

/-! ### The outage (07 R144-R146) -/

theorem countsClosed_iff (nv : Nv) (w : Snapshot) (listed : List Nat) (v : Nat) (c : Core) : countsClosed nv w listed v c = true ↔
    v ∈ listed ∨ 0 < (w.valves.atD .reset v).claims ∨ (w.valves.atD .reset v).position = .closed
    ∨ ((w.valves.atD .reset v).position = .unknown
      ∧ (seen nv .valve v c = .poisoned ∨ ∃ r, seen nv .valve v c = .value r ∧ r.valve.normal = 1)) := by
  cases h : seen nv .valve v c with
  | value r => simp [countsClosed, h, or_assoc]
  | absent => simp [countsClosed, h, or_assoc]
  | poisoned => simp [countsClosed, h, or_assoc]

theorem mem_sourcesOf {nv : Nv} {w : Snapshot} {s : List Nat} {c : Core} {g : Nat} : g ∈ sourcesOf nv w s c ↔
    g ∈ presentIn nv .segment c ∧ g ∉ s ∧ (∃ r, seen nv .segment g c = .value r ∧ r.segment.source = true)
      ∧ ∀ t ∈ w.otherSets, g ∉ t := by
  rw [sourcesOf, List.mem_filter]
  cases h : seen nv .segment g c with
  | value r => simp [and_assoc, and_left_comm]
  | absent => simp
  | poisoned => simp

section
variable {nv : Nv} {w : Snapshot} {s listed todo reached : List Nat} {k g : Nat} {c d e : Core}

theorem reach_poisoned (hd : d = touchIndex nv .segmentIndex g c) (h : indexPoisoned .segmentIndex g d = true) :
    reach nv w s listed (k + 1) (g :: todo) reached c = reach nv w s listed k todo reached d := by
  subst hd
  rw [reach, if_pos h]

/-- The segments that a segment reaches next. -/
def nextReached (nv : Nv) (w : Snapshot) (s listed reached : List Nat) (items : List (Nat × Nat)) (c : Core) : List Nat :=
  distinct (((items.filter fun p => !countsClosed nv w listed p.1 c).map Prod.snd).filter fun h =>
    h ≠ Config.none16 && !s.contains h && !reached.contains h)

theorem mem_nextReached {items : List (Nat × Nat)} {h : Nat} : h ∈ nextReached nv w s listed reached items c ↔
    h ≠ 65535 ∧ h ∉ s ∧ h ∉ reached ∧ ∃ v, (v, h) ∈ items ∧ countsClosed nv w listed v c = false := by
  simp only [nextReached, mem_distinct, List.mem_filter, List.mem_map, Prod.exists, exists_eq_right, Bool.and_eq_true,
    decide_eq_true_eq, Bool.not_eq_true', List.contains_eq_mem, decide_eq_false_iff_not]
  simp only [Config.none16, and_assoc]
  exact ⟨fun ⟨hnext, hnone, hs, hreached⟩ => ⟨hnone, hs, hreached, hnext⟩,
    fun ⟨hnone, hs, hreached, hnext⟩ => ⟨hnext, hnone, hs, hreached⟩⟩

theorem reach_goes (hd : d = touchIndex nv .segmentIndex g c) (he : e = touchUnknown nv w (boundaryList nv g d) d)
    (h : indexPoisoned .segmentIndex g d = false) : reach nv w s listed (k + 1) (g :: todo) reached c =
      reach nv w s listed k (todo ++ nextReached nv w s listed reached (boundaryList nv g d) e)
        (reached ++ nextReached nv w s listed reached (boundaryList nv g d) e) e := by
  subst he hd
  rw [reach, if_neg (by simp [h])]
  rfl

end

end Sys2Proof.Machine
end

section
/-! The completion of a plan, and what is admitted after it (O49). -/

namespace Sys2Proof.Machine

open Sys2Proof.Claims

/-! ### The test for an admission (07 R130, R131) -/

/-- What 07 R130 takes first: the lower class, and in a class the lower raise order. -/
def pendingBefore (a b : Incident) : Bool := decide (a.cls < b.cls) || (a.cls == b.cls && decide (a.order < b.order))

theorem pendingBefore_iff {a b : Incident} : pendingBefore a b = true ↔ a.cls < b.cls ∨ (a.cls = b.cls ∧ a.order < b.order) := by
  simp [pendingBefore]

theorem pendingBefore_eq_false {a b : Incident} :
    pendingBefore a b = false ↔ ¬(a.cls < b.cls ∨ (a.cls = b.cls ∧ a.order < b.order)) := by
  rw [← pendingBefore_iff, Bool.not_eq_true]

theorem nextPending_eq (c : Core) : nextPending c =
    (sortBy pendingBefore ((live c).filter fun i => i.state = .pending && !masked i.zone c)).head? := rfl

theorem mem_pending {c : Core} {i : Incident} : i ∈ (live c).filter (fun i => i.state = .pending && !masked i.zone c) ↔
    i ∈ live c ∧ i.state = .pending ∧ c.ic.mask.getLsbD i.zone = false := by
  simp [List.mem_filter, masked]

theorem nextPending_first {c : Core} {i : Incident} (h : FirstPending c i) : nextPending c = some i := by
  obtain ⟨hlive, hstate, hmask, hfirst⟩ := h
  have listed : i ∈ sortBy pendingBefore ((live c).filter fun i => i.state = .pending && !masked i.zone c) :=
    mem_sortBy.2 (mem_pending.2 ⟨hlive, hstate, hmask⟩)
  have sorted := pairwise_sortBy (before := pendingBefore)
    (fun a b d hab hbd => by rw [pendingBefore_eq_false] at *; omega)
    (fun a b hab => by rw [pendingBefore_iff] at hab; rw [pendingBefore_eq_false]; omega)
    ((live c).filter fun i => i.state = .pending && !masked i.zone c)
  have pending (j : Incident) (hj : j ∈ sortBy pendingBefore ((live c).filter fun i => i.state = .pending && !masked i.zone c)) :=
    mem_pending.1 (mem_sortBy.1 hj)
  rw [nextPending_eq]
  cases hs : sortBy pendingBefore ((live c).filter fun i => i.state = .pending && !masked i.zone c) with
  | nil =>
    rw [hs] at listed
    exact absurd listed List.not_mem_nil
  | cons j js =>
    rw [hs] at listed sorted pending
    rcases List.mem_cons.1 listed with rfl | hi
    · rfl
    · obtain ⟨hl, hp, hm⟩ := pending j List.mem_cons_self
      rcases hfirst j hl hp hm with rfl | hbefore
      · rfl
      · exact absurd hbefore (pendingBefore_eq_false.1 ((List.pairwise_cons.1 sorted).1 i hi))

theorem nextPending_none {c : Core} (h : ∀ i ∈ live c, i.state = .pending → c.ic.mask.getLsbD i.zone = true) :
    nextPending c = none := by
  have none_pending : (live c).filter (fun i => i.state = .pending && !masked i.zone c) = [] := by
    refine List.eq_nil_iff_forall_not_mem.2 fun i hi => ?_
    obtain ⟨hl, hp, hm⟩ := mem_pending.1 hi
    exact Bool.false_ne_true (hm.symm.trans (h i hl hp))
  rw [nextPending_eq, none_pending]
  rfl

section
variable {nv : Nv} {c : Core}

theorem admission_waits (h : c.ip.engine ≠ .idle ∨ c.ts.compile = .swapPending) : admission nv c = c := by
  unfold admission
  split
  · rfl
  · next he => exact if_pos (h.resolve_left fun hn => hn he)

theorem admission_replan {o : Nat} {rest : List Nat} {i : Incident} (he : c.ip.engine = .idle) (hc : c.ts.compile ≠ .swapPending)
    (hq : c.ip.queue = o :: rest) (hi : (live c).find? (fun x => x.order == o) = some i) :
    admission nv c = startPlan nv i .replan { c with ip := { c.ip with queue := rest } } := by
  have same : (live { c with ip := { c.ip with queue := rest } }).find? (fun x => x.order == o) = some i := hi
  rw [admission, he]
  dsimp only
  rw [if_neg hc, hq]
  dsimp only
  rw [same]

section
variable (he : c.ip.engine = .idle) (hc : c.ts.compile ≠ .swapPending) (hq : c.ip.queue = [])
include he hc hq

theorem admission_first {i : Incident} (hi : nextPending c = some i) :
    admission nv c = startPlan nv i .first (changeState i.number .planning c) := by
  rw [admission, he]
  dsimp only
  rw [if_neg hc, hq]
  dsimp only
  rw [hi]

theorem admission_none (hi : nextPending c = none) : admission nv c = c := by
  rw [admission, he]
  dsimp only
  rw [if_neg hc, hq]
  dsimp only
  rw [hi]

end

end

theorem presentIn_touched (nv : Nv) (t u : TableName) (xs : List Nat) (c : Core) :
    presentIn nv t (xs.foldl (fun c g => touchEntry nv u g c) c) = presentIn nv t c := by
  have valid := (LocateOnly.foldl (f := fun c g => touchEntry nv u g c) (fun c g => touchEntry_only nv u g c) xs c).valid
  rw [presentIn, presentIn, valid]

/-! ### The computation of a plan (07 R132-R140, R144-R146) -/

section
variable {nv : Nv} {w : Snapshot} {s : List Nat} {c d e : Core} {x : StallCause}

theorem computePlan_fails (h : expand nv w (w.limit + 2) w.isolation c = (.error x, d)) : computePlan nv w c = (.error x, d) := by
  rw [computePlan, h]

theorem computePlan_full (h : expand nv w (w.limit + 2) w.isolation c = (.ok s, d))
    (hfull : 64 < w.closure.length + (newValves nv w s d).length) : computePlan nv w c = (.error .listFull, d) := by
  rw [computePlan, h]
  exact if_pos hfull

theorem computePlan_succeeds {outage : List Nat} (h : expand nv w (w.limit + 2) w.isolation c = (.ok s, d))
    (hroom : w.closure.length + (newValves nv w s d).length ≤ 64)
    (ho : outageOf nv w s (w.closure.map (fun x => x.valve) ++ newValves nv w s d) d = (outage, e)) :
    computePlan nv w c = (.ok ⟨s, newValves nv w s d, outage⟩, e) := by
  have listed : ¬Config.closureEntries < w.closure.length + (newValves nv w s d).length := Nat.not_lt.2 hroom
  rw [computePlan, h]
  dsimp only
  rw [if_neg listed, ho]

theorem outageOf_eq {listed start reached : List Nat} (hs : reachStart nv w s c = (start, d))
    (hr : reach nv w s listed 513 start start d = (reached, e)) : outageOf nv w s listed c =
      ((presentIn nv .segment e).filter fun g => !reached.contains g && !s.contains g, e) := by
  have reaches : reach nv w s listed (Config.segments + 1) start start d = (reached, e) := hr
  rw [outageOf, hs]
  dsimp only
  rw [reaches]

end

/-! ### What stands of a plan (07 R141) -/

section
variable {nv : Nv} {o : Nat} {r : Except StallCause Plan} {c : Core} {i : Incident}

theorem planStands_ended (h : ∀ i ∈ live c, i.order ≠ o) : planStands nv o r c = c := by
  have gone : (live c).find? (fun i => i.order == o) = none := List.find?_eq_none.2 fun i hi => by simpa using h i hi
  rw [planStands, gone]

theorem planStands_released (hi : (live c).find? (fun x => x.order == o) = some i) (hs : i.state = .planning)
    (hr : i.releaseRequested = true) : planStands nv o r c = endIncident nv i.number c := by
  rw [planStands, hi]
  exact if_pos ⟨hs, hr⟩

theorem planStands_restoring (hi : (live c).find? (fun x => x.order == o) = some i) (hs : i.state = .restoring) :
    planStands nv o r c = c := by
  rw [planStands, hi]
  dsimp only
  rw [if_neg (by simp [hs]), if_pos hs]

section
variable (hi : (live c).find? (fun x => x.order == o) = some i) (hn : ¬(i.state = .planning ∧ i.releaseRequested = true))
  (hr : i.state ≠ .restoring)
include hi hn hr

theorem planStands_failed {cause : StallCause} : planStands nv o (.error cause) c = stallIncident i cause c := by
  rw [planStands, hi]
  dsimp only
  rw [if_neg hn, if_neg hr]

theorem planStands_succeeded {p : Plan} : planStands nv o (.ok p) c =
    arbiter nv (planOutcome nv i p ((causesOf nv p c).newOver i.consent) (applyPlan nv i p c)) := by
  rw [planStands, hi]
  dsimp only
  rw [if_neg hn, if_neg hr]

end

end

/-! ### The parts of a plan that is applied (07 R138, R139, R142, R143, R148) -/

theorem countsProtected_iff {nv : Nv} {g : Nat} {c : Core} : countsProtected nv g c = true ↔ seen nv .segment g c = .poisoned
    ∨ indexPoisoned .segmentIndex g c = true ∨ ∃ r, seen nv .segment g c = .value r ∧ r.segment.protect = true := by
  rw [countsProtected, Bool.or_eq_true, segmentPoisoned_iff, or_assoc]
  cases h : seen nv .segment g c with
  | value r => simp
  | absent => simp
  | poisoned => simp

theorem protect_iff {nv : Nv} {p : Plan} {c : Core} : (causesOf nv p c).protect = true ↔ ∃ g, (g ∈ p.isolation ∨ g ∈ p.outage)
    ∧ (seen nv .segment g c = .poisoned ∨ indexPoisoned .segmentIndex g c = true
      ∨ ∃ r, seen nv .segment g c = .value r ∧ r.segment.protect = true) := by
  simp only [causesOf, List.any_eq_true, List.mem_append, countsProtected_iff]

theorem newOver_iff (k old : Causes) : k.newOver old = true ↔ (k.advise = true ∧ old.advise = false)
    ∨ (k.protect = true ∧ old.protect = false) ∨ (k.outageLimit = true ∧ old.outageLimit = false) := by
  simp [Causes.newOver, or_assoc]

theorem interiorTo_iff {nv : Nv} {s : List Nat} {v : Nat} {c : Core} :
    interiorTo nv s v c = true ↔ ∃ g ∈ s, ∃ far ∈ s, (v, far) ∈ boundaryList nv g c := by
  simp only [interiorTo, List.any_eq_true, Bool.and_eq_true, beq_iff_eq, List.contains_iff_mem, Prod.exists]
  constructor
  · rintro ⟨g, hg, u, far, hm, rfl, hfar⟩
    exact ⟨g, hg, far, hfar, hm⟩
  · rintro ⟨g, hg, far, hfar, hm⟩
    exact ⟨g, hg, v, far, hm, rfl, hfar⟩

theorem waitsForReopen_iff {p : Plan} {c : Core} : waitsForReopen p c = true ↔
    ∃ v ∈ p.valves, ∃ k m, motionOf v c = some (k, m) ∧ m.action = .reopen := by
  rw [waitsForReopen, List.any_eq_true]
  refine exists_congr fun v => and_congr_right fun _ => ?_
  cases motionOf v c with
  | none => simp
  | some x =>
    obtain ⟨k, m⟩ := x
    constructor
    · exact fun h => ⟨k, m, rfl, beq_iff_eq.1 h⟩
    · rintro ⟨_, _, ⟨⟩, h⟩
      exact beq_iff_eq.2 h

/-- A plan that waits for a reopen motion queues a replan, before its incident goes on. -/
theorem queued_of_waiting {i : Incident} {p : Plan} {c d : Core}
    (hjoin : (∃ v ∈ p.valves, ∃ k m, motionOf v c = some (k, m) ∧ m.action = .reopen) → d = joinQueue i.number c)
    (hnone : (∀ v ∈ p.valves, ∀ k m, motionOf v c = some (k, m) → m.action ≠ .reopen) → d = c) :
    (if waitsForReopen p c then joinQueue i.number c else c) = d := by
  split
  · next h => exact (hjoin (waitsForReopen_iff.1 h)).symm
  · next h => exact (hnone fun v hv k m hm ha => h (waitsForReopen_iff.2 ⟨v, hv, k, m, hm, ha⟩)).symm

section
variable {nv : Nv} {i : Incident} {p : Plan} {c d : Core} {needs : Bool}
  (hd : (if waitsForReopen p c then joinQueue i.number c else c) = d)
include hd

theorem planOutcome_needs (hs : i.state = .planning ∨ i.state = .isolating ∨ i.state = .suspending ∨ i.state = .suspended) :
    planOutcome nv i p true c = changeState i.number .awaitingConsent d := by
  unfold planOutcome
  rw [hd]
  rcases hs with h | h | h | h <;> rw [h] <;> rfl

theorem planOutcome_planning (hs : i.state = .planning) :
    planOutcome nv i p false c = completionTest nv i.number (changeState i.number .isolating d) := by
  unfold planOutcome
  rw [hd, hs]
  rfl

theorem planOutcome_isolating (hs : i.state = .isolating) : planOutcome nv i p false c = completionTest nv i.number d := by
  unfold planOutcome
  rw [hd, hs]
  rfl

theorem planOutcome_suspended (hs : i.state = .suspending ∨ i.state = .suspended) : planOutcome nv i p false c = d := by
  unfold planOutcome
  rw [hd]
  rcases hs with h | h <;> rw [h] <;> rfl

theorem planOutcome_other (hp : i.state ≠ .planning) (hi : i.state ≠ .isolating) (hs : i.state ≠ .suspending)
    (hu : i.state ≠ .suspended) : planOutcome nv i p needs c = d := by
  unfold planOutcome
  rw [hd]
  split
  · next h => exact absurd h hp
  · next h => exact absurd h hi
  · next h => exact absurd h hs
  · next h => exact absurd h hu
  · rfl

end

/-! ### The completion (07 R141) -/

section
variable {nv : Nv} {c : Core}

theorem planCompletion_idle (h : c.ip.engine = .idle) : planCompletion nv c = (nv, c) := by rw [planCompletion, h]

theorem planCompletion_running {o : Nat} {kind : PlanKind} {w : Snapshot} {b d : Core} (h : c.ip.engine = .running o kind w)
    (hb : b = luUpdate nv (computePlan nv w c).2)
    (hd : d = planStands nv o (computePlan nv w c).1 { b with ip := { b.ip with engine := .idle } }) :
    planCompletion nv c = if d.ts.compile = .swapPending then takeSwap nv (beginPart d) else (nv, admission nv d) := by
  subst hd hb
  rw [planCompletion, h]

/-- A computation and what stands of it leave the compile as it was. -/
theorem planStands_compile {o : Nat} {w : Snapshot} {b d : Core} (hb : b = luUpdate nv (computePlan nv w c).2)
    (hd : d = planStands nv o (computePlan nv w c).1 { b with ip := { b.ip with engine := .idle } }) :
    d.ts.compile = c.ts.compile := by
  have stands : d.ts.compile = b.ts.compile := by
    rw [hd]
    exact (frameKept_moves (Moves.planStands_of nv (.refl _) o _)).compile
  rw [stands, hb]
  exact (frameKept_moves ((Moves.computePlan_of nv w (.refl c)).luUpdate_of nv)).compile

end

end Sys2Proof.Machine

namespace Sys2Proof.Proofs

open Sys2Proof Sys2Proof.Machine Sys2Proof.Claims

/-- Settles O49: the completion, the admission, the expansion, the outage and the parts of a plan applied, each by its own
equations. -/
theorem plansComplete : Obligations.PlansComplete := by
  have row (s : State) : exec .planCompletion s = .next (swapEvent planCompletion s) := rfl
  refine ⟨fun s h => swap_ends (row s) (planCompletion_idle h), fun s o kind w c d he hc hd => ?completion,
    fun nv swapped c d hswapped => ⟨fun h => ?swaps, fun n t i h => takeSwap_abandoned h⟩,
    fun nv c => ⟨admission_waits, fun he hc => ⟨fun o rest i => admission_replan he hc,
      fun hq => ⟨fun i hi => admission_first he hc hq (nextPending_first hi),
        fun h => admission_none he hc hq (nextPending_none h)⟩⟩, fun i kind w hw => ?begins⟩,
    fun nv w c => ⟨fun s x d h => ?computeFails, fun s d vs outage e h hvs hroom ho => ?computes⟩,
    usable_iff, fun nv s c => ⟨fun v far => mem_boundaryOf, pairwise_boundaryOf nv s c⟩,
    fun nv g v far c hwf => mem_boundaryList hwf,
    fun nv w k s c d => ⟨expand_unreadable, fun h => ⟨fun x e => expand_fails h, fun t e he => ?expands⟩⟩,
    fun nv g gs c d hd => ⟨rfl, readIndexes_poisoned hd, readIndexes_sound hd⟩,
    fun nv w v far rest s c d e hd he => ⟨rfl, examine_passes hd, fun hu hfar => ?examines⟩,
    fun nv w s c => ⟨fun v => mem_newValves, pairwise_newValves nv w s c⟩, countsClosed_iff,
    fun nv w s listed start reached c d e hs hr => outageOf_eq hs hr, fun nv w s c d hd => ?starts,
    fun nv w s listed k g todo reached c d e hd he => ⟨?exhausted, reach_poisoned hd, fun hi => ?reaches⟩,
    fun nv o r c => ⟨planStands_ended, fun i hi => ⟨planStands_released hi, planStands_restoring hi, fun hn hr => ?stands⟩⟩,
    fun nv i p c d e joining k hj hk hd he => ?applies,
    fun nv s c e v => ⟨fun h => if_pos (interiorTo_iff.2 h), fun h => if_neg fun hi => ?amends, ?entry⟩,
    fun nv i p needs c d hjoin hnone => ?outcome⟩
  case swaps => exact (takeSwap_completed h).trans (by rw [hswapped, swapped_eq])
  case begins =>
    subst hw
    rfl
  case exhausted => cases k <;> rfl
  case completion =>
    have completed := planCompletion_running he hc hd
    have compile := planStands_compile hc hd
    refine ⟨fun hpending => swap_ends (row s) (completed.trans (if_neg (compile ▸ hpending))), fun hpending => ?_⟩
    have swap := swap_ends (nv := (takeSwap s.nv (beginPart d)).1) (c := (takeSwap s.nv (beginPart d)).2) (row s)
      (completed.trans (if_pos (compile.trans hpending)))
    obtain ⟨hcompile, hlast, _⟩ := takeSwap_ends s.nv (beginPart d)
    refine ⟨swap, _, swap, ?_, ?_⟩
    · rw [ended_ts, (luUpdate_only _ _).compile, hcompile]
    · rw [ended_ts, (luUpdate_only _ _).last]
      exact hlast
  case computeFails =>
    rcases h with h | ⟨h, hfull, rfl⟩
    · exact computePlan_fails h
    · exact computePlan_full h hfull
  case computes =>
    subst hvs
    exact computePlan_succeeds h hroom ho
  case expands =>
    exact ⟨fun hlen => (expand_pass h he).trans (if_pos hlen), fun hlen => (expand_pass h he).trans (if_neg hlen)⟩
  case examines =>
    have grows := examine_grows (rest := rest) hd hu hfar
    rw [← he] at grows
    refine ⟨fun hnone => grows.trans (if_pos hnone), fun hfar hp =>
      grows.trans ((if_neg hfar).trans (if_pos (segmentPoisoned_iff.2 hp))), fun hfar hseen hindex => ?_⟩
    have sound : ¬segmentPoisoned nv far e = true := fun hp =>
      (segmentPoisoned_iff.1 hp).elim hseen (fun hi => by simp [hindex] at hi)
    have room := grows.trans ((if_neg hfar).trans (if_neg sound))
    exact ⟨fun hlimit => room.trans (if_pos hlimit), fun hlimit => room.trans (if_neg (Nat.not_lt.2 hlimit))⟩
  case starts =>
    have present : presentIn nv .segment d = presentIn nv .segment c := by rw [hd, presentIn_touched]
    refine ⟨sourcesOf nv w s d, _, present ▸ List.filter_sublist, fun g => present ▸ mem_sourcesOf, rfl, ?_⟩
    subst hd
    rfl
  case reaches =>
    exact ⟨nextReached nv w s listed reached (boundaryList nv g d) e, nodup_distinct _, fun h => mem_nextReached,
      reach_goes hd he hi⟩
  case stands =>
    refine ⟨fun cause h => ?_, fun p h => ?_⟩
    · subst h
      exact planStands_failed hi hn hr
    · subst h
      exact planStands_succeeded hi hn hr
  case applies =>
    refine ⟨?_, ?_, hk ▸ protect_iff, ?_, newOver_iff k⟩
    · subst he hd hk hj
      rfl
    · rw [hk]
      exact beq_iff_eq
    · rw [hk]
      exact decide_eq_true_iff
  case amends =>
    obtain ⟨g, hg, far, hfar, hm⟩ := interiorTo_iff.1 hi
    exact h g hg far hfar hm
  case entry => simp only [newEntry, Option.isNone_iff_eq_none]
  case outcome =>
    have queued := queued_of_waiting hjoin hnone
    refine ⟨fun hs hn => hn ▸ planOutcome_needs queued hs, fun hs hn => hn ▸ planOutcome_planning queued hs,
      fun hs hn => hn ▸ planOutcome_isolating queued hs, fun hs hn => hn ▸ planOutcome_suspended queued hs,
      planOutcome_other queued⟩

end Sys2Proof.Proofs
end
